-- ==== Sys2Proof/Word.lean ====
section
/-!
DEFINITION. The words of the block: cells, nibbles, the key register's values and the command word
(spec 00 section 5, 30 R50). All are unsigned.
-/
namespace Sys2Proof

/-- One buffer cell: a byte, or one character of text (`u8`, 00 R4, 20 R31). -/
abbrev Byte := BitVec 8

/-- A value of the key register, of R0 and of RFINAL (`u16`, 00 R4). -/
abbrev Word := BitVec 16

/-- A nibble: one half of a byte (`u4`, 00 section 6). -/
abbrev Nibble := BitVec 4

/-- The command word CMD and the response word RSP (30 R50, R55). -/
abbrev CmdWord := BitVec 18

end Sys2Proof
end

