-- ==== Sys2Proof/Syntax.lean ====
section
/-!
DEFINITION. The four operations of the block as instructions (00 R1, 30 R51), one constructor per row
of the operation table. An instruction is what the 18 bits of CMD say; LEN, ALLOC_OK and the input cells
are carried beside CMD (30 R50) and stand at the ports (Machine/State.lean).
-/
namespace Sys2Proof

/-- The four operations. Each carries the field CMD[15:0]. HEXENC and HEXDEC carry it so that no bit of
the word is lost, and ignore it (30 R60, log entry 12). -/
inductive Instr where
  /-- DECRYPT, OP = 0: `r0` is the value R starts from (41 R93). -/
  | decrypt (r0 : Word)
  /-- ENCRYPT, OP = 1: `r0` is the value R starts from (41 R94). -/
  | encrypt (r0 : Word)
  /-- HEXENC, OP = 2: the R0 field is ignored (42 R110). -/
  | hexenc (r0 : Word)
  /-- HEXDEC, OP = 3: the R0 field is ignored (43 R120). -/
  | hexdec (r0 : Word)
deriving DecidableEq, Repr

/-- The field CMD[15:0] as the instruction carries it. -/
def Instr.r0Field : Instr → Word
  | .decrypt r0 => r0
  | .encrypt r0 => r0
  | .hexenc r0 => r0
  | .hexdec r0 => r0

end Sys2Proof
end

