-- ==== Sys2Proof/WellFormed.lean ====
section
/-!
DEFINITION. What a well-formed command is. No command encoding is illegal: all four operation codes
and every R0 are legal (30 R59), so an instruction has nothing to check. The one bound of the spec is the
width of the LEN operand, LEN_W, an open parameter (00 R4, 30 R53, 92 D13).
-/
namespace Sys2Proof

/-- Well-formed instruction: every one (30 R59: "No command encoding is illegal, reserved or a hint"). -/
def Instr.wf : Instr → Bool
  | .decrypt _ => true
  | .encrypt _ => true
  | .hexenc _ => true
  | .hexdec _ => true

/-- A LEN operand that an instance of width `lenW` can be given: 0 to 2^LEN_W - 1 (10 section 4, 30 R53). -/
def lenFits (lenW len : Nat) : Bool := decide (len < 2 ^ lenW)

/-- A CMD word, given as a number, that fits its 18 bits (30 R50). -/
def cmdFits (w : Nat) : Bool := decide (w < 2 ^ 18)

end Sys2Proof
end

