-- ==== Sys2Proof/Decode.lean ====
section
/-!
DEFINITION. Decoding and encoding the command word CMD (30 R50, R51, R52, R60). CMD is a word at a port
and never cells of a buffer (20 R37), so the decoder reads a word and no bytes.
-/
namespace Sys2Proof

/-- OP = CMD[17:16] (30 R50). -/
def cmdOp (w : CmdWord) : BitVec 2 := w.extractLsb' 16 2

/-- R0 = CMD[15:0] (30 R50). -/
def cmdR0 (w : CmdWord) : Word := w.extractLsb' 0 16

/-- The decoder of commands: total, no encoding is illegal (30 R51, R59). -/
def decodeCmd (w : CmdWord) : Instr :=
  if cmdOp w = 0#2 then .decrypt (cmdR0 w)
  else if cmdOp w = 1#2 then .encrypt (cmdR0 w)
  else if cmdOp w = 2#2 then .hexenc (cmdR0 w)
  else .hexdec (cmdR0 w)

/-- Why a number is no command word. -/
inductive DecodeRefusal where
  /-- The number does not fit the 18 bits of CMD. Raised by `decodeWord`; safe (log entry 11). -/
  | widerThanCmd (w : Nat)
deriving DecidableEq, Repr

/-- The decoder on any number: total, and a number wider than CMD is refused by name (log entry 11). -/
def decodeWord (w : Nat) : Except DecodeRefusal Instr :=
  if cmdFits w then .ok (decodeCmd (BitVec.ofNat 18 w)) else .error (.widerThanCmd w)

/-- The operation code of an instruction (30 R51). -/
def Instr.opCode : Instr → BitVec 2
  | .decrypt _ => 0#2
  | .encrypt _ => 1#2
  | .hexenc _ => 2#2
  | .hexdec _ => 3#2

/-- The command word of an instruction: OP above R0 (30 R50). -/
def encodeCmd (i : Instr) : CmdWord := i.opCode ++ i.r0Field

/-- The encoder: the words of an instruction, its one word CMD (30 R50: "There is no other format"). -/
def encode (i : Instr) : List CmdWord := [encodeCmd i]

/-- What the decoder reads from an instruction whose bits are `w`, bit 0 the least significant bit of CMD.
The instruction is one 18-bit word, which the table's rows give whole, so the count of bits adds nothing. -/
def decodeTableWord (_nbits w : Nat) : Option Instr :=
  match decodeWord w with
  | .ok i => some i
  | .error _ => none

end Sys2Proof
end

