-- ==== Sys2Proof/Config.lean ====
section
/-!
DEFINITION. The fixed parameters of the block (00 R4), and the free values: what the spec leaves with
no value (93 U4, U8). A free value is a constant with no body, so no proof can rest on what it is.
LEN_W is no constant here: statements that need it take it as an argument (92 D13, log entry 2).
-/
namespace Sys2Proof.Config

/-- The multiplier c1 of the recurrence, "never configurable" (00 R4). -/
def c1 : Nat := 52845

/-- The increment c2 of the recurrence (00 R4). -/
def c2 : Nat := 22719

/-- The R0 a caller passes for a fresh eexec section (30 R63, 41 R103). A convention of the host: nothing
in the block holds it, defaults to it or checks it. -/
def eexecSeed : Word := 55665#16

/-- The hex alphabet `0123456789ABCDEF` in order (00 R4, 42 R111).
PRESUMED: the cell values are the ASCII codes, from general knowledge (93 U1, log entry 13). -/
def hexAlphabet : List Byte :=
  [0x30#8, 0x31#8, 0x32#8, 0x33#8, 0x34#8, 0x35#8, 0x36#8, 0x37#8,
   0x38#8, 0x39#8, 0x41#8, 0x42#8, 0x43#8, 0x44#8, 0x45#8, 0x46#8]

/-- Free value: the digit taken from a character that is not one (`(0, any)`, 43 R121, 93 U8), by the
count of draws and the position of the character (log entry 5). -/
opaque badDigit : Nat → Nat → Nibble

/-- Free value: the key register of an idle instance after a command (93 U4, log entry 4). -/
opaque idleR : Nat → Word

/-- Free value: the position counter of an idle instance after a command (93 U4, log entry 4). -/
opaque idleI : Nat → Nat

/-- Free value: the OP latch of an idle instance after a command (93 U4, log entry 4). -/
opaque idleOp : Nat → BitVec 2

/-- Free value: the LEN latch of an idle instance after a command (93 U4, log entry 4). -/
opaque idleLen : Nat → Nat

/-- Free value: the recorded ALLOC_OK of an idle instance after a command (93 U4, log entry 4). -/
opaque idleAlloc : Nat → Bool

/-- Free value: the nibble latch of an idle instance after a command (93 U4, log entry 4). -/
opaque idleHi : Nat → Nibble

/-- Free value: the BAD flag of an idle instance after a command (93 U4, log entry 4). -/
opaque idleBad : Nat → Bool

/-- Free value: the output count of an idle instance after a command (93 U4, log entry 4). -/
opaque idleOlen : Nat → Nat

end Sys2Proof.Config
end

