-- ==== Sys2Proof/Machine/State.lean ====
section
/-!
DEFINITION. The state of one instance of the block (spec 10), the inputs the host holds at its ports
(10 section 4, 70 R182), the response it delivers (30 R55), and the reasons a step can stop.
-/
namespace Sys2Proof.Machine

/-- The cells of one buffer space, IBUF or OBUF (20 R30): addresses strictly rising, no entry equal to what
an unlisted address reads as (log entry 6). -/
abbrev Memory := List Host.Cell

/-- The values of the OP latch (2 bits, all four codes used: 10 R14, 30 R51). -/
inductive Op where
  | decrypt
  | encrypt
  | hexenc
  | hexdec
deriving DecidableEq, Repr

/-- The three failure outcomes of the block (60 R140). Each is a response, not a stop. -/
inductive Failure where
  /-- STATUS = 1, "Allocation failure for the output buffer" (60 R141). -/
  | outOfMemory
  /-- STATUS = 2, FormatError{OddLength} (60 R142). -/
  | oddLength
  /-- STATUS = 3, FormatError{InvalidDigit} (60 R143). -/
  | invalidDigit
deriving DecidableEq, Repr

/-- A response (30 R55). A response that has no Rfinal carries none here: the model says nothing of those
bits (30 R57, 93 U2). A failure carries no output cell (60 R146). -/
inductive Response where
  /-- STATUS = 0: the cells OBUF[0 .. OLEN-1] handed over, and RFINAL for a cipher command. -/
  | ok (out : List Byte) (rfinal : Option Word)
  /-- STATUS = 1, 2 or 3. -/
  | err (failure : Failure)
deriving DecidableEq, Repr

/-- What the host does to the buffers of a command that the rules forbid it (93 U6, U7). -/
inductive HostMisuse where
  /-- IBUF and OBUF share a cell (20 R42). -/
  | buffersOverlap
  /-- OBUF shares a cell with a buffer of a command on another instance (20 R42, 70 R177). -/
  | obufShared
  /-- The host changed a cell of IBUF between ACCEPT and RESPOND (70 R176). -/
  | ibufChanged
  /-- The host touched OBUF between ACCEPT and RESPOND (70 R177). -/
  | obufTouched
deriving DecidableEq, Repr

/-- How much of a command one step runs (log entry 1; the model's own). 40 R78 allows both. -/
inductive Grain where
  /-- A command is one step: what the host sees. -/
  | command
  /-- ACCEPT, each BEAT and RESPOND are steps of their own. -/
  | event
deriving DecidableEq, Repr

/-- The inputs of the block for the command presented, if one is (30 R50, 40 R70): CMD, LEN and ALLOC_OK, with the
buffer the host will hand over as IBUF. -/
structure Port where
  /-- A command is presented and not yet accepted. -/
  valid : Bool
  /-- CMD, 18 bits. -/
  cmd : CmdWord
  /-- LEN, the number of input cells (30 R53). Unbounded (log entry 2). -/
  len : Nat
  /-- ALLOC_OK, the environment's answer (30 R54). -/
  allocOk : Bool
  /-- The input buffer of the command presented. It is the host's until ACCEPT hands it over as IBUF, so the host
  may change it while another command is in flight (70 R182, 20 R32, log entry 7). -/
  input : Memory
  /-- How the buffers handed over with the command break 20 R42, if they do. -/
  misuse : Option HostMisuse
deriving DecidableEq, Repr

/-- The working registers of one command (10 section 1). They have a meaning only while BUSY (10 R20). -/
structure Work where
  /-- OP, the operation of the command in flight (10 R14). -/
  op : Op
  /-- LEN, the number of input cells of the command in flight (10 R14). -/
  len : Nat
  /-- ALLOC_OK as recorded at ACCEPT (40 R70). -/
  alloc : Bool
  /-- R, the key register (10 R10). -/
  r : Word
  /-- I, the position counter (10 R13). -/
  i : Nat
  /-- HI, the nibble latch (10 R15). -/
  hi : Nibble
  /-- BAD, the sticky flag (10 R16). -/
  bad : Bool
  /-- OLEN, the count of output cells staged (10 R17). -/
  olen : Nat
deriving DecidableEq, Repr

/-- One instance of the block, with the inputs the host holds at its ports. -/
structure State where
  /-- BUSY: a command is in flight (10 R18). -/
  busy : Bool
  /-- The working registers. -/
  work : Work
  /-- The output cells written so far, hidden from the host (10 R19). -/
  staged : Memory
  /-- The input space IBUF: the input buffer of the command in flight (20 R30), then of the last one answered,
  which is the host's again (20 R32). -/
  ibuf : Memory
  /-- The response the last RESPOND delivered, while no later ACCEPT or RESET came (log entry 9). -/
  response : Option Response
  /-- The command the host presents. -/
  port : Port
  /-- The host asserts RESET (70 R170); the step that takes it clears it (log entry 8). -/
  resetPending : Bool
  /-- What the host did to the buffers of the command in flight that 70 R176 and R177 forbid. -/
  misuse : Option HostMisuse
  /-- Whether a step is a command or an event (the model's own, log entry 1). -/
  grain : Grain
  /-- The count of free values drawn (the model's own, log entry 18). -/
  draws : Nat
deriving DecidableEq, Repr

/-- Why the machine stops. The block itself has no trap: its failures are responses (60 R148). -/
inductive Fault where
  /-- BUSY = 1 with I above LEN: no event of 40 section 1 is enabled, a stuck state. Raised by the events
  of `step`. Safe: 10 R13 keeps I at most LEN, so no run reaches it (log entry 17). -/
  | noEventEnabled
deriving DecidableEq, Repr

/-- Why the model gives no next state. -/
inductive Refusal where
  /-- An instruction with no meaning yet. Raised by `exec`'s refused arms only; safe. No arm is left. -/
  | notModelled (mnemonic : String)
  /-- The host broke its duties on the buffers, and the spec has the model refuse the run (93 U6, U7).
  Raised by every command whose buffers are misused; safe (log entry 10). -/
  | hostMisuse (m : HostMisuse)
deriving DecidableEq, Repr

/-- The working registers after RESET. DESIGN CHOICE, unsafe: the spec gives none a value (10 R21), the
model names zero for each (log entry 3). -/
def Work.reset : Work :=
  { op := .decrypt, len := 0, alloc := false, r := 0#16, i := 0, hi := 0#4, bad := false, olen := 0 }

/-- No command presented. DESIGN CHOICE: inputs have no reset value (10 section 4, log entries 6 and 7). -/
def Port.reset : Port :=
  { valid := false, cmd := 0#18, len := 0, allocOk := false, input := [], misuse := none }

/-- The machine right after RESET, nothing presented: BUSY = 0, nothing in flight, no response pending
(10 R21). The other values are log entries 1, 3, 6, 7, 8, 10 and 18. -/
def State.reset : State :=
  { busy := false, work := Work.reset, staged := [], ibuf := [], response := none, port := Port.reset,
    resetPending := false, misuse := none, grain := .command, draws := 0 }

end Sys2Proof.Machine
end

