-- ==== Sys2Proof/Machine/Ops.lean ====
section
/-!
DEFINITION. The named operations over the buffer spaces and the registers: one-cell reads and writes
(20 R34, R35), the latching part of ACCEPT (40 R70), the delivery of a response (40 R77), RESET (70 R170),
and the frame every whole command runs in. A failure of the block is a response delivered like any other.
-/
namespace Sys2Proof.Machine

/-! ### Buffer spaces -/

/-- What a cell that is not listed reads as. DESIGN CHOICE, unsafe (log entry 6). -/
def Memory.unlisted : Byte := 0#8

/-- The canonical form of a space: addresses strictly rising, no entry equal to `Memory.unlisted`. -/
def Memory.wf : Memory → Bool
  | [] => true
  | (a, v) :: m => (v != Memory.unlisted) && m.all (fun c => decide (a < c.1)) && Memory.wf m

/-- `MemRead(space:a, 1)`: one cell, no side effect (20 R34). -/
def Memory.read : Memory → Nat → Byte
  | [], _ => Memory.unlisted
  | (b, v) :: m, a => if a = b then v else Memory.read m a

/-- `MemWrite(space:a, 1, v)`: one cell, keeping the canonical form (20 R35). -/
def Memory.write : Memory → Nat → Byte → Memory
  | [], a, v => if v = Memory.unlisted then [] else [(a, v)]
  | (b, w) :: m, a, v =>
    if a < b then (if v = Memory.unlisted then (b, w) :: m else (a, v) :: (b, w) :: m)
    else if a = b then (if v = Memory.unlisted then m else (a, v) :: m)
    else (b, w) :: Memory.write m a v

/-- The cells `a, a+1, …` of a space, `n` of them, in order. -/
def Memory.cellsFrom (m : Memory) : Nat → Nat → List Byte
  | _, 0 => []
  | a, n + 1 => Memory.read m a :: Memory.cellsFrom m (a + 1) n

/-- The cells 0 to n - 1 of a space, in order (20 R30). -/
def Memory.cells (m : Memory) (n : Nat) : List Byte := Memory.cellsFrom m 0 n

/-- A space whose cells from `a` on are the given ones, and nothing else. -/
def Memory.placeFrom : Nat → List Byte → Memory
  | _, [] => []
  | a, v :: vs => if v = Memory.unlisted then Memory.placeFrom (a + 1) vs
                  else (a, v) :: Memory.placeFrom (a + 1) vs

/-! ### Bit fields -/

/-- `high_byte(R)` is R[15:8] (00 R5). -/
def highByte (r : Word) : Byte := r.extractLsb' 8 8

/-- The high nibble, bits 7:4 (20 R36). -/
def highNibble (b : Byte) : Nibble := b.extractLsb' 4 4

/-- The low nibble, bits 3:0 (20 R36). -/
def lowNibble (b : Byte) : Nibble := b.extractLsb' 0 4

/-- `(h << 4) | l` of two digit values (43 R125). -/
def joinNibbles (h l : Nibble) : Byte := h ++ l

/-! ### Registers -/

/-- The values of the OP latch by code (30 R51). -/
def Op.ofCode (c : BitVec 2) : Op :=
  if c = 0#2 then .decrypt else if c = 1#2 then .encrypt else if c = 2#2 then .hexenc else .hexdec

/-- The working registers of an instance idle after a command: free values, none with a meaning
(10 R20, 93 U4, log entry 4). -/
def Work.idle (draw : Nat) : Work :=
  { op := Op.ofCode (Config.idleOp draw), len := Config.idleLen draw, alloc := Config.idleAlloc draw,
    r := Config.idleR draw, i := Config.idleI draw, hi := Config.idleHi draw,
    bad := Config.idleBad draw, olen := Config.idleOlen draw }

/-- Stage one output cell: `MemWrite(OBUF:OLEN, 1, v); OLEN <- OLEN + 1` (40 R74). -/
def State.stage (s : State) (v : Byte) : State :=
  { s with staged := s.staged.write s.work.olen v,
           work := { s.work with olen := s.work.olen + 1 } }

/-- Write the key register. Only the cipher's beats call it (10 R12). -/
def State.setR (s : State) (r : Word) : State := { s with work := { s.work with r := r } }

/-- Write the nibble latch. Only the HEXDEC beat at an even position calls it (10 R15). -/
def State.setHi (s : State) (h : Nibble) : State := { s with work := { s.work with hi := h } }

/-- Write the BAD flag. Only the HEXDEC beat calls it (10 R16). -/
def State.setBad (s : State) (b : Bool) : State := { s with work := { s.work with bad := b } }

/-- `I <- I + 1`, the end of every beat (40 R74). -/
def State.advance (s : State) : State := { s with work := { s.work with i := s.work.i + 1 } }

/-- The load of a beat, `MemRead(IBUF:I, 1)` (40 R74). -/
def State.loadCell (s : State) : Byte := s.ibuf.read s.work.i

/-! ### Events shared by all commands -/

/-- The handover at ACCEPT (20 R32, R41): the presented command's input buffer becomes IBUF, as the host left it,
and the presentation is taken (log entry 7). No misuse of these buffers in flight has happened yet. -/
def State.takePresented (s : State) : State :=
  { s with ibuf := s.port.input, port := { s.port with valid := false }, misuse := none }

/-- ACCEPT as one atomic step (40 R70): take over the presented command and its input buffer, latch it, clear I,
BAD, OLEN and the staged output, set BUSY. `r0` is given for a cipher command only, otherwise R keeps its value
(10 R12). HI is not written (10 R15). -/
def State.accept (s : State) (op : Op) (r0 : Option Word) : State :=
  { s.takePresented with
    busy := true
    work := { s.work with op := op, len := s.port.len, alloc := s.port.allocOk,
                          r := r0.getD s.work.r, i := 0, bad := false, olen := 0 }
    staged := []
    response := none }

/-- The part of RESPOND common to success and failure (40 R77): hand the response over, drop the staged
output, clear BUSY. The working registers then hold free values (10 R20, 93 U4, log entry 4). -/
def State.deliver (s : State) (rsp : Response) : State :=
  { s with
    busy := false
    work := Work.idle s.draws
    staged := []
    response := some rsp
    draws := s.draws + 1 }

/-- RESET (70 R170, R171): the state of 10 R21, the command in flight discarded with no response. A
presented command, its input buffer and IBUF are not touched. -/
def State.takeReset (s : State) : State :=
  { s with
    busy := false
    work := Work.reset
    staged := []
    response := none
    resetPending := false
    misuse := none
    draws := s.draws + 1 }

/-- The input cells of the presented command, IBUF[0 .. LEN-1] once it is handed over (30 R50). -/
def State.input (s : State) : List Byte := s.port.input.cells s.port.len

/-- A whole command as one step (40 R78), its response already worked out. While BUSY the command waits and
nothing changes (40 R79). Misused buffers are refused (93 U7). -/
def runCommand (s : State) (rsp : Response) : Host.Outcome State Fault Refusal :=
  if s.busy then .next s
  else match s.port.misuse with
    | some m => .refused (.hostMisuse m)
    | none => .next (s.takePresented.deliver rsp)

end Sys2Proof.Machine
end

