-- ==== Sys2Proof/Machine/Operands.lean ====
section
/-!
DEFINITION. The operand forms of a command: the operation, R0, LEN and ALLOC_OK (30 section 2), the
required output length and the two pre-checks that read them (40 R71, R72, R73).
-/
namespace Sys2Proof.Machine

/-- The operation an instruction selects, `x[OP] <- CMD[17:16]` (40 R70). -/
def opOf : Instr → Op
  | .decrypt _ => .decrypt
  | .encrypt _ => .encrypt
  | .hexenc _ => .hexenc
  | .hexdec _ => .hexdec

/-- R0, the operand of the cipher commands only (30 R52, R60). -/
def r0Of : Instr → Option Word
  | .decrypt r0 => some r0
  | .encrypt r0 => some r0
  | .hexenc _ => none
  | .hexdec _ => none

/-- The required output length L of an operation over N cells; none for HEXDEC with N odd (40 R71). -/
def requiredLength : Op → Nat → Option Nat
  | .decrypt, n => some n
  | .encrypt, n => some n
  | .hexenc, n => some (2 * n)
  | .hexdec, n => if n % 2 = 0 then some (n / 2) else none

/-- The allocation pre-check for an output of `l` cells: denied iff l > 0 and ALLOC_OK = 0 (40 R73). -/
def allocDenied (l : Nat) (alloc : Bool) : Bool := decide (0 < l) && !alloc

/-- The two pre-checks in their order: OddLength, then OutOfMemory (40 R72, R73, 60 R145). -/
def precheck (op : Op) (n : Nat) (alloc : Bool) : Option Failure :=
  match requiredLength op n with
  | none => some .oddLength
  | some l => if allocDenied l alloc then some .outOfMemory else none

/-- The pre-checks of the command in flight, on what ACCEPT latched. -/
def Work.precheck (w : Work) : Option Failure := Machine.precheck w.op w.len w.alloc

/-- A command is complete when a pre-check has failed or I = LEN (40 R76). -/
def Work.complete (w : Work) : Bool := w.precheck.isSome || decide (w.i = w.len)

/-- I[0], the phase of the hex decoder: false at the first character of a pair (10 R13, 43 R128). -/
def Work.secondOfPair (w : Work) : Bool := w.i % 2 == 1

/-- An outcome that needs an output buffer of `l` cells: the buffer is asked for first (40 R73). -/
def withBuffer (l : Nat) (alloc : Bool) (rsp : Response) : Response :=
  if allocDenied l alloc then .err .outOfMemory else rsp

end Sys2Proof.Machine
end

