-- ==== Sys2Proof/Machine/Flags.lean ====
section
/-!
DEFINITION. The one flag of the block, BAD (10 R16). There is no carry, zero, overflow or sign flag: the
cipher's arithmetic wraps silently (41 R96).
-/
namespace Sys2Proof.Machine

/-- BAD after a HEXDEC beat that read a character with this table entry: set by a character that is no
digit, never cleared (10 R16, 43 R128). -/
def badAfter (bad : Bool) (digit : Option Nibble) : Bool := bad || digit.isNone

end Sys2Proof.Machine
end

