-- ==== Sys2Proof/Machine/Cipher.lean ====
section
/-!
DEFINITION. The CipherEngine (spec 41): the recurrence, the two directions at command level and their
beats, and the meanings of DECRYPT and ENCRYPT.
-/
namespace Sys2Proof.Machine

/-- next(R, fb) = ((fb + R) * 52845 + 22719) mod 65536, computed exactly and narrowed once (41 R90, R96). The
constants stand on the left, so that Lean's kernel never unfolds the product over an open register. -/
def nextR (r : Word) (fb : Byte) : Word :=
  BitVec.ofNat 16 (Config.c2 + Config.c1 * (fb.toNat + r.toNat))

/-- The combiner: a byte XOR the keystream byte K = high_byte(R) (41 R91). -/
def combine (r : Word) (b : Byte) : Byte := b ^^^ highByte r

/-- DECRYPT over a buffer from register value `r`: the output and the final register. The feedback byte is
the input byte (41 R92, R93). -/
def decryptFrom : Word → List Byte → List Byte × Word
  | r, [] => ([], r)
  | r, c :: cs =>
    let rest := decryptFrom (nextR r c) cs
    (combine r c :: rest.1, rest.2)

/-- ENCRYPT over a buffer from register value `r`: the output and the final register. The feedback byte is
the output byte (41 R92, R94). -/
def encryptFrom : Word → List Byte → List Byte × Word
  | r, [] => ([], r)
  | r, p :: ps =>
    let rest := encryptFrom (nextR r (combine r p)) ps
    (combine r p :: rest.1, rest.2)

/-- `decrypt(B, R0)` with the allocator's answer: the response of a DECRYPT command (41 R93, 40 R78). -/
def decryptResponse (r0 : Word) (b : List Byte) (alloc : Bool) : Response :=
  withBuffer b.length alloc (.ok (decryptFrom r0 b).1 (some (decryptFrom r0 b).2))

/-- `encrypt(B, R0)` with the allocator's answer: the response of an ENCRYPT command (41 R94, 40 R78). -/
def encryptResponse (r0 : Word) (b : List Byte) (alloc : Bool) : Response :=
  withBuffer b.length alloc (.ok (encryptFrom r0 b).1 (some (encryptFrom r0 b).2))

/-- The DECRYPT beat on the loaded cell (41 R93). -/
def decryptBeat (s : State) : State :=
  (s.stage (combine s.work.r s.loadCell)).setR (nextR s.work.r s.loadCell)

/-- The ENCRYPT beat on the loaded cell (41 R94). -/
def encryptBeat (s : State) : State :=
  (s.stage (combine s.work.r s.loadCell)).setR (nextR s.work.r (combine s.work.r s.loadCell))

/-- DECRYPT (41 R93). -/
def execDecrypt (r0 : Word) (s : State) : Host.Outcome State Fault Refusal :=
  runCommand s (decryptResponse r0 s.input s.port.allocOk)

/-- ENCRYPT (41 R94). -/
def execEncrypt (r0 : Word) (s : State) : Host.Outcome State Fault Refusal :=
  runCommand s (encryptResponse r0 s.input s.port.allocOk)

end Sys2Proof.Machine
end

