-- ==== Sys2Proof/Machine/HexDecoder.lean ====
section
/-!
DEFINITION. The HexDecoder (spec 43): case folding, its table, the pairing of characters into bytes, the
two format failures in their order, its beat and the meaning of HEXDEC.
-/
namespace Sys2Proof.Machine

/-- Folding to uppercase: `a` to `z` to their capitals, every other cell value as it is (43 R122).
PRESUMED: ASCII, from general knowledge (93 U1, log entry 13). -/
def foldUpper (c : Byte) : Byte :=
  if 0x61 ≤ c.toNat ∧ c.toNat ≤ 0x7A then c - 0x20#8 else c

/-- The place of a character in the rest of an alphabet, counted from `n`. -/
def placeIn : List Byte → Nibble → Byte → Option Nibble
  | [], _, _ => none
  | d :: ds, n, c => if c = d then some n else placeIn ds (n + 1#4) c

/-- DEC_LUT: the digit value of a character, none where it is no digit. A character is valid exactly when,
case-folded to uppercase, it is one of the alphabet, and its value is its place there (43 R121, R124). -/
def decLut (c : Byte) : Option Nibble := placeIn Config.hexAlphabet 0#4 (foldUpper c)

/-- The bytes of a text of even length, none if some character of it is no digit: both characters of each
pair are validated (43 R120, R124, R125). -/
def hexDecodePairs : List Byte → Option (List Byte)
  | [] => some []
  | [_] => none
  | h :: l :: t =>
    match decLut h, decLut l, hexDecodePairs t with
    | some vh, some vl, some rest => some (joinNibbles vh vl :: rest)
    | _, _, _ => none

/-- `hexDecode(T)` with the allocator's answer: OddLength, then OutOfMemory, then InvalidDigit (43 R120, R129,
40 R78). -/
def hexdecResponse (t : List Byte) (alloc : Bool) : Response :=
  if t.length % 2 = 1 then .err .oddLength
  else withBuffer (t.length / 2) alloc
    (match hexDecodePairs t with
     | none => .err .invalidDigit
     | some out => .ok out none)

/-- The digit a HEXDEC beat works with: the table's value, or a free value for a character that is no digit
(43 R128, 93 U8, log entry 5). -/
def State.beatDigit (s : State) : Nibble :=
  (decLut s.loadCell).getD (Config.badDigit s.draws s.work.i)

/-- The HEXDEC beat on the loaded cell (43 R128): BAD, then HI at an even position or an output cell at an
odd one. -/
def hexdecBeat (s : State) : State :=
  let flagged := s.setBad (badAfter s.work.bad (decLut s.loadCell))
  if s.work.secondOfPair then flagged.stage (joinNibbles s.work.hi s.beatDigit)
  else flagged.setHi s.beatDigit

/-- HEXDEC (43 R120). The R0 field is ignored (30 R60). -/
def execHexdec (_r0 : Word) (s : State) : Host.Outcome State Fault Refusal :=
  runCommand s (hexdecResponse s.input s.port.allocOk)

end Sys2Proof.Machine
end

