-- ==== Sys2Proof/Machine/HexEncoder.lean ====
section
/-!
DEFINITION. The HexEncoder (spec 42): its table, the two-characters-per-byte expansion, its beat and the
meaning of HEXENC.
-/
namespace Sys2Proof.Machine

/-- ENC_LUT: the n-th character of the alphabet (42 R111). -/
def encLut (n : Nibble) : Byte := Config.hexAlphabet.getD n.toNat Memory.unlisted

/-- HEXENC over a buffer: high nibble then low nibble of each byte (42 R110). -/
def hexEncodeCells : List Byte → List Byte
  | [] => []
  | b :: bs => encLut (highNibble b) :: encLut (lowNibble b) :: hexEncodeCells bs

/-- `hexEncode(B)` with the allocator's answer: the response of a HEXENC command (42 R110, 40 R78). -/
def hexencResponse (b : List Byte) (alloc : Bool) : Response :=
  withBuffer (2 * b.length) alloc (.ok (hexEncodeCells b) none)

/-- The HEXENC beat on the loaded cell: two cells, the high nibble's first (42 R110). -/
def hexencBeat (s : State) : State :=
  (s.stage (encLut (highNibble s.loadCell))).stage (encLut (lowNibble s.loadCell))

/-- HEXENC (42 R110). The R0 field is ignored (30 R60). -/
def execHexenc (_r0 : Word) (s : State) : Host.Outcome State Fault Refusal :=
  runCommand s (hexencResponse s.input s.port.allocOk)

end Sys2Proof.Machine
end

