-- ==== Sys2Proof/Machine/Dispatch.lean ====
section
/-!
DEFINITION. The meaning of each operation (spec 41, 42, 43), one arm per constructor of Instr.
-/
namespace Sys2Proof.Machine

/-- The meaning of an instruction in a state. -/
def exec (i : Instr) (s : State) : Host.Outcome State Fault Refusal :=
  match i with
  | .decrypt r0 => Sys2Proof.Machine.execDecrypt r0 s
  | .encrypt r0 => Sys2Proof.Machine.execEncrypt r0 s
  | .hexenc r0 => Sys2Proof.Machine.execHexenc r0 s
  | .hexdec r0 => Sys2Proof.Machine.execHexdec r0 s

end Sys2Proof.Machine
end

