-- ==== Sys2Proof/Machine/Events.lean ====
section
/-!
DEFINITION. The events of a command taken one at a time (spec 40): ACCEPT, BEAT, RESPOND. 40 R78: they
refine the command-level meaning, which is normative.
-/
namespace Sys2Proof.Machine

/-- The instruction the presented CMD word decodes to. -/
def State.presentedInstr (s : State) : Instr := decodeCmd s.port.cmd

/-- ACCEPT of the presented command (40 R70). Misused buffers are refused (93 U7). -/
def acceptEvent (s : State) : Host.Outcome State Fault Refusal :=
  match s.port.misuse with
  | some m => .refused (.hostMisuse m)
  | none => .next (s.accept (opOf s.presentedInstr) (r0Of s.presentedInstr))

/-- One BEAT: the operation's work on the loaded cell, then `I <- I + 1` (40 R74). -/
def beat (s : State) : State :=
  match s.work.op with
  | .decrypt => (decryptBeat s).advance
  | .encrypt => (encryptBeat s).advance
  | .hexenc => (hexencBeat s).advance
  | .hexdec => (hexdecBeat s).advance

/-- The staged output handed over with a success: OBUF[0 .. OLEN-1] (40 R77). -/
def State.stagedCells (s : State) : List Byte := s.staged.cells s.work.olen

/-- The response RESPOND forms (40 R77). -/
def State.formResponse (s : State) : Response :=
  match s.work.precheck with
  | some f => .err f
  | none =>
    match s.work.op with
    | .decrypt => .ok s.stagedCells (some s.work.r)
    | .encrypt => .ok s.stagedCells (some s.work.r)
    | .hexenc => .ok s.stagedCells none
    | .hexdec => if s.work.bad then .err .invalidDigit else .ok s.stagedCells none

/-- RESPOND (40 R77). -/
def respond (s : State) : State := s.deliver s.formResponse

/-- The event enabled while BUSY: RESPOND of a complete command, else a BEAT (40 section 1). A command whose
buffers the host misuses is refused (93 U6, U7). Neither is enabled with I above LEN. -/
def busyEvent (s : State) : Host.Outcome State Fault Refusal :=
  match s.misuse with
  | some m => .refused (.hostMisuse m)
  | none =>
    if s.work.complete then .next (respond s)
    else if s.work.i < s.work.len then .next (beat s)
    else .fault .noEventEnabled

/-- The step of an idle instance with a command presented: the whole command, or its ACCEPT, by the grain
(40 R78, log entry 1). -/
def startEvent (s : State) : Host.Outcome State Fault Refusal :=
  match s.grain with
  | .command => exec s.presentedInstr s
  | .event => acceptEvent s

/-- One step of an instance. RESET is enabled at any time and is taken first (70 R170, log entry 8). While
BUSY a presented command waits (40 R79). An idle instance with none presented has no enabled event (60 R155)
and stays as it is. -/
def stepEvent (s : State) : Host.Outcome State Fault Refusal :=
  if s.resetPending then .next s.takeReset
  else if s.busy then busyEvent s
  else if s.port.valid then startEvent s
  else .next s

end Sys2Proof.Machine
end

