-- ==== Sys2Proof/Machine/HostMoves.lean ====
section
/-!
DEFINITION. What the host can do to an instance between two steps (70 R182): its liberties, and the two
kinds of misuse the spec has a model refuse (93 U6, U7). No step of the block makes these moves.
-/
namespace Sys2Proof.Machine

/-- Present a command: CMD, its input buffer `b`, whose length is LEN, and the environment's ALLOC_OK (30 R50). Its
buffers are to be handed over as 20 R42 asks, at ACCEPT and not before (70 R182). Any command, at any time. -/
def State.present (s : State) (cmd : CmdWord) (b : List Byte) (allocOk : Bool) : State :=
  { s with port := { valid := true, cmd := cmd, len := b.length, allocOk := allocOk,
                     input := Memory.placeFrom 0 b, misuse := none } }

/-- Present a command whose buffers break 20 R42. -/
def State.presentMisused (s : State) (cmd : CmdWord) (b : List Byte) (allocOk : Bool) (m : HostMisuse) : State :=
  { s with port := { (s.present cmd b allocOk).port with misuse := some m } }

/-- Withdraw a presented command (70 R182: "keep presenting, or withdraw"). -/
def State.withdraw (s : State) : State := { s with port := { s.port with valid := false } }

/-- Write one cell of the presented command's input buffer. It is the host's own until ACCEPT, whether or not
another command is in flight: no misuse (70 R182, row "command while busy"). -/
def State.hostWriteInput (s : State) (a : Nat) (v : Byte) : State :=
  { s with port := { s.port with input := s.port.input.write a v } }

/-- Fill the presented command's input buffer, every other cell as nothing written; LEN stays. The host's own until
ACCEPT, as with one cell (70 R182). -/
def State.placeInput (s : State) (b : List Byte) : State :=
  { s with port := { s.port with input := Memory.placeFrom 0 b } }

/-- Assert RESET (70 R170). -/
def State.assertReset (s : State) : State := { s with resetPending := true }

/-- Write one cell of IBUF, the buffer handed over at the last ACCEPT. Changing a cell below LEN while that command
is in flight is a misuse (70 R176); afterwards the buffer is the host's (20 R32). -/
def State.hostWriteIbuf (s : State) (a : Nat) (v : Byte) : State :=
  { s with
    ibuf := s.ibuf.write a v
    misuse := if s.busy && decide (a < s.work.len) && (s.ibuf.read a != v) then some .ibufChanged
              else s.misuse }

/-- Touch OBUF, the output buffer of the command in flight (20 R30). From ACCEPT to RESPOND that is a misuse
(70 R177); otherwise it is the host's own. -/
def State.hostTouchObuf (s : State) : State :=
  { s with misuse := if s.busy then some .obufTouched else s.misuse }

/-- Touch the output buffer meant for the presented command. It is the host's own until ACCEPT (70 R182), and what it
holds then is read by no event (20 R34), so nothing of the instance changes (log entry 14). -/
def State.hostTouchWaitingObuf (s : State) : State := s

/-- Give the OBUF of the command in flight to another instance, a misuse (70 R177). -/
def State.shareObuf (s : State) : State :=
  { s with misuse := if s.busy then some .obufShared else s.misuse }

/-- Choose how much of a command a step runs (the model's own, log entry 1). -/
def State.withGrain (s : State) (g : Grain) : State := { s with grain := g }

end Sys2Proof.Machine
end

