-- ==== Sys2Proof/Machine/Step.lean ====
section
/-!
DEFINITION. One step of an instance, and placing an instruction where the next step runs it.
-/
namespace Sys2Proof.Machine

/-- One step: `stepEvent` (spec 40 section 1, 70 R170). -/
def step (s : State) : Host.Outcome State Fault Refusal := stepEvent s

/-- `s` with the command word `w` presented to an idle instance and no RESET asserted, so that the next step
runs the whole command. The operands beside the word are zero: an empty buffer and ALLOC_OK = 0 (log entry 16). The word is
the whole instruction, so the count of bits adds nothing. -/
def State.withFetchWord (s : State) (_nbits w : Nat) : State :=
  { s with busy := false, resetPending := false, grain := .command }.present (BitVec.ofNat 18 w) [] false

end Sys2Proof.Machine
end

