-- ==== Sys2Proof/Machine/Instances.lean ====
section
/-!
DEFINITION. Several instances side by side (60 R156). They share no state, have no identifiers and send each
other nothing: a step of one is a step of that one alone. OBUF cells given to two instances at once are a
misuse the host declares at the port (20 R42, `HostMisuse.obufShared`).
-/
namespace Sys2Proof.Machine

/-- The instance at place `k` takes one step, the others none. With no instance there, nothing happens. -/
def stepInstance (k : Nat) (all : List State) : Host.Outcome (List State) Fault Refusal :=
  match all[k]? with
  | none => .next all
  | some s =>
    match step s with
    | .next t => .next (all.set k t)
    | .fault f => .fault f
    | .refused r => .refused r

end Sys2Proof.Machine
end

