-- ==== Sys2Proof/Machine/Responses.lean ====
section
/-!
DEFINITION. The response as the host reads it: STATUS, OLEN, the cells handed over, RFINAL, and the word RSP
(30 section 3).
-/
namespace Sys2Proof.Machine

/-- The status code of a failure (30 R56). -/
def Failure.code : Failure → BitVec 2
  | .outOfMemory => 1#2
  | .oddLength => 2#2
  | .invalidDigit => 3#2

/-- STATUS of a response (30 R56). -/
def Response.status : Response → BitVec 2
  | .ok _ _ => 0#2
  | .err f => f.code

/-- The output cells handed over: none with a failure (30 R58, 60 R146). -/
def Response.out : Response → List Byte
  | .ok out _ => out
  | .err _ => []

/-- OLEN, the number of cells handed over: 0 with a failure (30 R58). -/
def Response.olen (rsp : Response) : Nat := rsp.out.length

/-- RFINAL, where it is part of the response (30 R57). -/
def Response.rfinal : Response → Option Word
  | .ok _ r => r
  | .err _ => none

/-- The word RSP: STATUS above RFINAL (30 R55). Where the response has no Rfinal the low 16 bits carry any
value, given as `low`, and no claim may rest on them (30 R57, 93 U2, log entry 15). -/
def Response.rsp (low : Word) (rsp : Response) : CmdWord := rsp.status ++ rsp.rfinal.getD low

end Sys2Proof.Machine
end

