-- ==== Sys2Proof/Safety.lean ====
section
/-!
DEFINITION. The terms claims are stated in: when a command can start, what holds of every state a run
reaches, and what counts as a safe run (every step answers a next state, and no response of a failure hands
output over).
-/
namespace Sys2Proof.Machine

/-- The block can take a command: it is idle (40 R70) and the buffers are handed over as 20 R42 asks. -/
abbrev State.Ready (s : State) : Prop := s.busy = false ∧ s.port.misuse = none

/-- The environment grants the output buffer of this operation, or none is needed (40 R73). -/
abbrev State.Granted (s : State) : Prop := s.port.len = 0 ∨ s.port.allocOk = true

/-- The block takes its next event of a command in flight: no RESET is asserted, the host kept its duties. -/
abbrev State.InFlight (s : State) : Prop :=
  s.busy = true ∧ s.resetPending = false ∧ s.misuse = none

/-- A BEAT is enabled (40 R74). -/
abbrev State.BeatEnabled (s : State) : Prop :=
  s.InFlight ∧ s.work.precheck = none ∧ s.work.i < s.work.len

/-- How many output cells are staged after `i` beats of an operation (10 R17). -/
def stagedAfter : Op → Nat → Nat
  | .decrypt, i => i
  | .encrypt, i => i
  | .hexenc, i => 2 * i
  | .hexdec, i => i / 2

/-- The number of beats of a command: LEN, or none when a pre-check fails (40 R75). -/
def beatCount (op : Op) (len : Nat) (alloc : Bool) : Nat :=
  match precheck op len alloc with
  | none => len
  | some _ => 0

/-- What holds of the registers of a command in flight: I is at most LEN and 0 if a pre-check failed, OLEN is
the number of cells staged, every cell staged lies below OLEN, and BAD says whether a character read so far is
no digit, which only HEXDEC can find (10 R13, R16, R17, 40 R72 to R75). -/
abbrev State.FlightOk (s : State) : Prop :=
  s.work.i ≤ s.work.len
  ∧ (s.work.precheck = none ∨ s.work.i = 0)
  ∧ s.work.olen = stagedAfter s.work.op s.work.i
  ∧ s.staged.all (fun c => decide (c.1 < s.work.olen)) = true
  ∧ s.work.bad = (decide (s.work.op = .hexdec)
                  && (s.ibuf.cells s.work.i).any (fun c => (decLut c).isNone))

/-- The invariant of an instance: all its buffers in canonical form, a command in flight consistent, an idle
instance with nothing staged (10 R20). -/
abbrev State.Inv (s : State) : Prop :=
  s.ibuf.wf = true ∧ s.staged.wf = true ∧ s.port.input.wf = true
  ∧ (s.busy = true → s.FlightOk) ∧ (s.busy = false → s.staged = [])

/-- The response of a command as a function of the command alone: the instruction, the input cells and the
answer ALLOC_OK (00 R6, 40 R78). -/
def commandResponse : Instr → List Byte → Bool → Response
  | .decrypt r0, b, alloc => decryptResponse r0 b alloc
  | .encrypt r0, b, alloc => encryptResponse r0 b alloc
  | .hexenc _, b, alloc => hexencResponse b alloc
  | .hexdec _, t, alloc => hexdecResponse t alloc

/-- An outcome is that of the whole command in `s` completed with a response: the response delivered, BUSY
cleared, the staged output dropped, the presentation taken (the model's choice, log entry 7), IBUF the input buffer
presented, every cell as it was handed over (20 R33), and nothing else of the host's changed (40 R77, 60 R147). The
working registers are not named: they have no meaning then (10 R20). -/
def Completes (o : Host.Outcome State Fault Refusal) (s : State) (rsp : Response) : Prop :=
  ∃ t, o = .next t ∧ t.response = some rsp ∧ t.busy = false ∧ t.staged = []
    ∧ t.port = { s.port with valid := false } ∧ t.ibuf = s.port.input
    ∧ (∀ a, t.ibuf.read a = s.port.input.read a) ∧ t.resetPending = s.resetPending ∧ t.grain = s.grain

/-- A stream cut in parts and issued as one cipher command per part, each with the RFINAL of the one before as
its R0, the allocator granting each (70 R178): the outputs joined and the last RFINAL. -/
def threadParts (command : Word → Instr) : Word → List (List Byte) → Option (List Byte × Word)
  | r, [] => some ([], r)
  | r, p :: ps =>
    match commandResponse (command r) p true with
    | .ok out (some rf) => (threadParts command rf ps).map (fun q => (out ++ q.1, q.2))
    | _ => none

/-- `k` steps of an instance. -/
def runSteps (k : Nat) (s : State) : Host.Outcome State Fault Refusal := Host.Core.run Sys2Proof.core k s

end Sys2Proof.Machine
end

