-- ==== Sys2Proof/Certificates/Slice0/Obligations.lean ====
section
/-!
DEFINITION. The statements for the provers. Each docstring names the rules of the spec it comes from.
-/
open Sys2Proof Sys2Proof.Machine

/-! ### Encoding -/

/-- Decoding and encoding agree both ways: no bit of CMD is dropped (30 R50, R51, R52, R59). -/
def Obligations.DecodeEncodeAgree : Prop :=
  (∀ i : Instr, decodeCmd (encodeCmd i) = i) ∧ (∀ w : CmdWord, encodeCmd (decodeCmd w) = w)

/-- On any number: the 2^18 command words decode, each to the instruction whose word it is; a number wider than
CMD is refused (30 R50, R59; the refusal is the model's, log entry 11). -/
def Obligations.TableWordsDecode : Prop :=
  ∀ nbits w : Nat,
    (w < 2 ^ 18 → ∃ i, decodeTableWord nbits w = some i ∧ (encodeCmd i).toNat = w)
    ∧ (2 ^ 18 ≤ w → decodeTableWord nbits w = none)

/-- The four ranges of CMD select the four operations, with R0 the low 16 bits (30 R51, R52; 95 section 5). -/
def Obligations.CommandRangesSelectOperations : Prop :=
  ∀ v : Word,
    decodeCmd (BitVec.ofNat 18 v.toNat) = .decrypt v
    ∧ decodeCmd (BitVec.ofNat 18 (0x10000 + v.toNat)) = .encrypt v
    ∧ decodeCmd (BitVec.ofNat 18 (0x20000 + v.toNat)) = .hexenc v
    ∧ decodeCmd (BitVec.ofNat 18 (0x30000 + v.toNat)) = .hexdec v

/-- Words written out in the spec decode as it says (30 R63 and the worked encodings after it). -/
def Obligations.SpecWordsDecode : Prop :=
  decodeTableWord 24 0x0D971 = some (.decrypt 55665#16)
  ∧ decodeTableWord 24 0x1D971 = some (.encrypt 55665#16)
  ∧ decodeTableWord 24 0x10000 = some (.encrypt 0#16)
  ∧ decodeTableWord 24 0x0FFFF = some (.decrypt 65535#16)
  ∧ decodeTableWord 24 0x20000 = some (.hexenc 0#16)
  ∧ decodeTableWord 24 0x30000 = some (.hexdec 0#16)

/-- The status codes, the class and reason bits, success told from failure, and which operations give which
code (30 R56). -/
def Obligations.StatusCodes : Prop :=
  (∀ out r, (Response.ok out r).status = 0#2)
  ∧ (Response.err .outOfMemory).status = 1#2
  ∧ (Response.err .oddLength).status = 2#2
  ∧ (Response.err .invalidDigit).status = 3#2
  ∧ (∀ rsp : Response, rsp.status = 0#2 ↔ ∃ out r, rsp = .ok out r)
  ∧ (∀ rsp : Response, rsp.status.getLsbD 1 = true ↔ rsp = .err .oddLength ∨ rsp = .err .invalidDigit)
  ∧ (∀ rsp : Response, rsp.status.getLsbD 1 = true →
      (rsp.status.getLsbD 0 = false ↔ rsp = .err .oddLength)
      ∧ (rsp.status.getLsbD 0 = true ↔ rsp = .err .invalidDigit))
  ∧ (∀ i b alloc, (commandResponse i b alloc).status.getLsbD 1 = true → opOf i = .hexdec)
  ∧ (∀ i b alloc, (commandResponse i b alloc).status = 1#2 →
      ∃ l, requiredLength (opOf i) b.length = some l ∧ 0 < l)

/-- RSP holds STATUS in 17:16 and RFINAL in 15:0 where there is one; RFINAL is part of the response exactly for
a success of DECRYPT or ENCRYPT (30 R55, R57). That the other responses carry any value in 15:0 is rendered as the
argument `low`, the model's choice (log entry 15, DEDUCED from 30 R57 and 93 U2). -/
def Obligations.ResponseWordFields : Prop :=
  (∀ (rsp : Response) (low : Word),
      (rsp.rsp low).extractLsb' 16 2 = rsp.status
      ∧ (∀ v, rsp.rfinal = some v → (rsp.rsp low).extractLsb' 0 16 = v)
      ∧ (rsp.rfinal = none → (rsp.rsp low).extractLsb' 0 16 = low))
  ∧ (∀ i b alloc, (commandResponse i b alloc).rfinal.isSome = true ↔
      (commandResponse i b alloc).status = 0#2 ∧ (opOf i = .decrypt ∨ opOf i = .encrypt))

/-! ### Steps -/

/-- A step of an idle instance with a command presented runs the instruction its CMD word decodes to
(30 R51, 40 R70, R78; the grain is the model's, log entry 1). -/
def Obligations.StepRunsPresentedCommand : Prop :=
  ∀ s : State, s.resetPending = false → s.busy = false → s.port.valid = true → s.grain = .command →
    step s = exec (decodeCmd s.port.cmd) s

/-- A word placed for the next step is the instruction that step runs, whatever the state was
(30 R51, log entry 16). -/
def Obligations.FetchWordRunsNext : Prop :=
  ∀ (s : State) (nbits w : Nat), w < 2 ^ 18 →
    ∃ i, decodeTableWord nbits w = some i
      ∧ step (s.withFetchWord nbits w) = exec i (s.withFetchWord nbits w)

/-- ACCEPT taken as an event: OP, LEN and ALLOC_OK latched, R loaded from R0 for a cipher command and kept
otherwise, I, BAD, OLEN and the staged output cleared, HI kept, BUSY set, IBUF the input buffer presented, as the
host left it (40 R70, 10 R12, R15, 20 R32, R41). That the presentation is taken and the old response gone is the
model's choice (log entries 7 and 9). -/
def Obligations.AcceptLatchesCommand : Prop :=
  ∀ s : State, s.resetPending = false → s.Ready → s.port.valid = true → s.grain = .event →
    ∃ t, step s = .next t
      ∧ t.work = { op := Op.ofCode (cmdOp s.port.cmd), len := s.port.len, alloc := s.port.allocOk,
                   r := if s.port.cmd.getLsbD 17 then s.work.r else cmdR0 s.port.cmd,
                   i := 0, hi := s.work.hi, bad := false, olen := 0 }
      ∧ t.busy = true ∧ t.staged = [] ∧ t.response = none ∧ t.ibuf = s.port.input
      ∧ t.port = { s.port with valid := false } ∧ t.grain = s.grain ∧ t.resetPending = false

/-- The DECRYPT beat: one output cell at OLEN, its value the input cell XOR the high byte of R, R advanced with
the input cell as feedback, I and OLEN advanced, nothing else changed (40 R74, 41 R93). -/
def Obligations.DecryptBeatEffect : Prop :=
  ∀ s : State, s.BeatEnabled → s.staged.wf = true → s.work.op = .decrypt →
    ∃ t, step s = .next t
      ∧ t = { s with work := t.work, staged := t.staged }
      ∧ t.work = { s.work with r := nextR s.work.r (s.ibuf.read s.work.i), i := s.work.i + 1,
                               olen := s.work.olen + 1 }
      ∧ ∀ a, t.staged.read a =
          if a = s.work.olen then s.ibuf.read s.work.i ^^^ highByte s.work.r else s.staged.read a

/-- The ENCRYPT beat: as DECRYPT's, with the output cell as feedback (40 R74, 41 R94). -/
def Obligations.EncryptBeatEffect : Prop :=
  ∀ s : State, s.BeatEnabled → s.staged.wf = true → s.work.op = .encrypt →
    ∃ t, step s = .next t
      ∧ t = { s with work := t.work, staged := t.staged }
      ∧ t.work = { s.work with
                     r := nextR s.work.r (s.ibuf.read s.work.i ^^^ highByte s.work.r),
                     i := s.work.i + 1, olen := s.work.olen + 1 }
      ∧ ∀ a, t.staged.read a =
          if a = s.work.olen then s.ibuf.read s.work.i ^^^ highByte s.work.r else s.staged.read a

/-- The HEXENC beat: two output cells at OLEN and OLEN + 1, the high nibble's digit first, nothing else changed,
R kept (40 R74, 42 R110, 10 R12). -/
def Obligations.HexencBeatEffect : Prop :=
  ∀ s : State, s.BeatEnabled → s.staged.wf = true → s.work.op = .hexenc →
    ∃ t, step s = .next t
      ∧ t = { s with work := t.work, staged := t.staged }
      ∧ t.work = { s.work with i := s.work.i + 1, olen := s.work.olen + 2 }
      ∧ ∀ a, t.staged.read a =
          if a = s.work.olen then encLut (highNibble (s.ibuf.read s.work.i))
          else if a = s.work.olen + 1 then encLut (lowNibble (s.ibuf.read s.work.i))
          else s.staged.read a

/-- The HEXDEC beat: BAD set by a character that is no digit and never cleared; at an even position HI takes the
digit and no cell is written; at an odd position one cell at OLEN takes HI and the digit; R kept. What a
character that is no digit leaves in HI or in the cell is not said (43 R128, 10 R15, R16). -/
def Obligations.HexdecBeatEffect : Prop :=
  ∀ s : State, s.BeatEnabled → s.staged.wf = true → s.work.op = .hexdec →
    ∃ t, step s = .next t
      ∧ t = { s with work := t.work, staged := t.staged }
      ∧ t.work = { s.work with
                     i := s.work.i + 1
                     bad := s.work.bad || (decLut (s.ibuf.read s.work.i)).isNone
                     hi := t.work.hi
                     olen := if s.work.i % 2 = 0 then s.work.olen else s.work.olen + 1 }
      ∧ (s.work.i % 2 = 0 → t.staged = s.staged
          ∧ ∀ d, decLut (s.ibuf.read s.work.i) = some d → t.work.hi = d)
      ∧ (s.work.i % 2 = 1 → t.work.hi = s.work.hi
          ∧ (∀ a, a ≠ s.work.olen → t.staged.read a = s.staged.read a)
          ∧ ∀ d, decLut (s.ibuf.read s.work.i) = some d →
              t.staged.read s.work.olen = (s.work.hi.setWidth 8 <<< 4) ||| d.setWidth 8)

/-- RESPOND: the response in the order of the rule's cases, BUSY cleared, the staged output gone, the presented
command with its input buffer, IBUF and everything else of the host's kept (40 R77). -/
def Obligations.RespondFormsResponse : Prop :=
  ∀ s : State, s.InFlight → s.work.complete = true →
    ∃ t rsp, step s = .next t ∧ t.response = some rsp ∧ t.busy = false ∧ t.staged = []
      ∧ t.ibuf = s.ibuf ∧ t.port = s.port ∧ t.grain = s.grain ∧ t.resetPending = false
      ∧ rsp =
          if s.work.op = .hexdec ∧ s.work.len % 2 = 1 then .err .oddLength
          else if 0 < s.work.len ∧ s.work.alloc = false then .err .outOfMemory
          else if s.work.op = .hexdec ∧ s.work.bad = true then .err .invalidDigit
          else .ok (s.staged.cells s.work.olen)
            (if s.work.op = .decrypt ∨ s.work.op = .encrypt then some s.work.r else none)

/-- RESET is taken at any time: BUSY = 0, nothing in flight, no response, the staged output gone, IBUF and a
presented command with its input buffer not touched (70 R170, R171, 10 R21). -/
def Obligations.ResetDiscardsCommand : Prop :=
  ∀ s : State, s.resetPending = true →
    ∃ t, step s = .next t ∧ t.busy = false ∧ t.response = none ∧ t.staged = [] ∧ t.misuse = none
      ∧ t.ibuf = s.ibuf ∧ t.port = s.port ∧ t.resetPending = false ∧ t.grain = s.grain

/-- An idle instance with no command presented and no RESET asserted has no enabled event (60 R155, 40 section 1);
that its step then answers the state as it is, is the model's choice (log entry 21, DEDUCED). -/
def Obligations.IdleInstanceStays : Prop :=
  ∀ s : State, s.resetPending = false → s.busy = false → s.port.valid = false → step s = .next s

/-- While BUSY a presented command is neither executed nor lost nor failed: a step leaves it presented, with its input
buffer, and latches nothing of it (40 R79, 10 R14, 20 R43). The first clause, that exec of any instruction while BUSY
answers the state as it is, is the model's rendering of that wait (log entry 21, DEDUCED). -/
def Obligations.BusyHoldsPresentedCommand : Prop :=
  ∀ s : State, s.busy = true → s.resetPending = false →
    (∀ i, exec i s = .next s)
    ∧ ∀ t, step s = .next t → t.port = s.port
        ∧ (t.busy = true → t.work.op = s.work.op ∧ t.work.len = s.work.len ∧ t.work.alloc = s.work.alloc)

/-! ### Results of the commands -/

/-- DECRYPT completes: N output bytes and RFINAL, byte by byte in input order, out[k] = in[k] XOR high_byte(R),
the next R from the input byte (41 R93, R95). -/
def Obligations.DecryptResult : Prop :=
  ∀ (r0 : Word) (s : State), s.Ready → s.Granted →
    ∃ (out : List Byte) (r : Nat → Word),
      Completes (exec (.decrypt r0) s) s (.ok out (some (r s.port.len)))
      ∧ out.length = s.port.len ∧ r 0 = r0
      ∧ ∀ k, k < s.port.len →
          out[k]? = some (s.port.input.read k ^^^ highByte (r k))
          ∧ r (k + 1) = nextR (r k) (s.port.input.read k)

/-- ENCRYPT completes: N output bytes and RFINAL, byte by byte in input order, out[k] = in[k] XOR high_byte(R),
the next R from the output byte (41 R94, R95). -/
def Obligations.EncryptResult : Prop :=
  ∀ (r0 : Word) (s : State), s.Ready → s.Granted →
    ∃ (out : List Byte) (r : Nat → Word),
      Completes (exec (.encrypt r0) s) s (.ok out (some (r s.port.len)))
      ∧ out.length = s.port.len ∧ r 0 = r0
      ∧ ∀ k, k < s.port.len → ∃ c,
          c = s.port.input.read k ^^^ highByte (r k) ∧ out[k]? = some c ∧ r (k + 1) = nextR (r k) c

/-- HEXENC completes: two characters per byte, the high nibble's at 2k and the low nibble's at 2k + 1, no register
result, whatever the R0 field holds (42 R110, 20 R36, 30 R60). -/
def Obligations.HexencResult : Prop :=
  ∀ (x : Word) (s : State), s.Ready → s.Granted →
    ∃ out : List Byte,
      Completes (exec (.hexenc x) s) s (.ok out none) ∧ out.length = 2 * s.port.len
      ∧ ∀ k, k < s.port.len →
          out[2 * k]? = some (encLut (highNibble (s.port.input.read k)))
          ∧ out[2 * k + 1]? = some (encLut (lowNibble (s.port.input.read k)))

/-- HEXDEC of an even text of digits completes: one byte per pair of characters, (value(hi) << 4) | value(lo)
at k for positions 2k and 2k + 1, no register result, whatever the R0 field holds (43 R120, R125, 30 R60). -/
def Obligations.HexdecResult : Prop :=
  ∀ (x : Word) (s : State), s.Ready → s.Granted → s.port.len % 2 = 0 →
    (∀ k, k < s.port.len → (decLut (s.port.input.read k)).isSome = true) →
    ∃ out : List Byte,
      Completes (exec (.hexdec x) s) s (.ok out none) ∧ out.length = s.port.len / 2
      ∧ ∀ k, k < s.port.len / 2 → ∀ h l, decLut (s.port.input.read (2 * k)) = some h →
          decLut (s.port.input.read (2 * k + 1)) = some l →
          out[k]? = some ((h.setWidth 8 <<< 4) ||| l.setWidth 8)

/-- An empty input succeeds for every operation whatever ALLOC_OK is: no output cell, RFINAL = R0 for the cipher,
none for the hex operations (40 R73, R76, 41 R95, 43 R127). -/
def Obligations.EmptyInputSucceeds : Prop :=
  ∀ (i : Instr) (s : State), s.Ready → s.port.len = 0 →
    Completes (exec i s) s (.ok [] (match i with
      | .decrypt r0 => some r0
      | .encrypt r0 => some r0
      | .hexenc _ => none
      | .hexdec _ => none))

/-- Every command the block can take is answered, with exactly one response and nothing of the host's changed
(40 R80, 60 R147, R148). -/
def Obligations.EveryCommandAnswered : Prop :=
  ∀ (i : Instr) (s : State), s.Ready → ∃ rsp, Completes (exec i s) s rsp

/-- FormatError{OddLength} comes from HEXDEC and no other operation, when and only when LEN is odd (60 R142). -/
def Obligations.OddLengthExactly : Prop :=
  ∀ (i : Instr) (s : State), s.Ready →
    (Completes (exec i s) s (.err .oddLength) ↔ opOf i = .hexdec ∧ s.port.len % 2 = 1)

/-- OutOfMemory comes exactly when the environment denies an output buffer that is needed, never from the
contents of the input, and no other failure comes from DECRYPT, ENCRYPT or HEXENC (60 R141). -/
def Obligations.OutOfMemoryExactly : Prop :=
  ∀ (i : Instr) (s : State), s.Ready →
    (Completes (exec i s) s (.err .outOfMemory) ↔
      s.port.allocOk = false ∧ ∃ l, requiredLength (opOf i) s.port.len = some l ∧ 0 < l)
    ∧ (opOf i ≠ .hexdec → ∀ f, Completes (exec i s) s (.err f) → f = .outOfMemory)

/-- FormatError{InvalidDigit} comes from HEXDEC and no other operation, when LEN is even, allocation passed and
some character at any index is no digit (60 R143, 43 R124). -/
def Obligations.InvalidDigitExactly : Prop :=
  ∀ (i : Instr) (s : State), s.Ready →
    (Completes (exec i s) s (.err .invalidDigit) ↔
      opOf i = .hexdec ∧ s.port.len % 2 = 0 ∧ s.Granted
      ∧ ∃ k, k < s.port.len ∧ decLut (s.port.input.read k) = none)

/-- OLEN: with a success it is the required output length of the operation (N, N, 2N, N/2), with a failure it is
0 and no cell and no RFINAL is handed over (30 R58, 40 R71, 60 R146). -/
def Obligations.OutputLengthHandedOver : Prop :=
  ∀ (i : Instr) (s : State) (rsp : Response), s.Ready → Completes (exec i s) s rsp →
    (rsp.status = 0#2 → rsp.olen = match i with
      | .decrypt _ => s.port.len
      | .encrypt _ => s.port.len
      | .hexenc _ => 2 * s.port.len
      | .hexdec _ => s.port.len / 2)
    ∧ (rsp.status ≠ 0#2 → rsp.olen = 0 ∧ rsp.out = [] ∧ rsp.rfinal = none)

/-- A command whose buffers the host misuses is refused by name: at its start, and while it is in flight
(93 U6, U7, 20 R42, 70 R176, R177). -/
def Obligations.MisusedBuffersRefused : Prop :=
  (∀ (i : Instr) (s : State) (m : HostMisuse), s.busy = false → s.port.misuse = some m →
      exec i s = .refused (.hostMisuse m))
  ∧ (∀ (s : State) (m : HostMisuse), s.resetPending = false → s.busy = false → s.port.valid = true →
      s.port.misuse = some m → step s = .refused (.hostMisuse m))
  ∧ (∀ (s : State) (m : HostMisuse), s.resetPending = false → s.busy = true → s.misuse = some m →
      step s = .refused (.hostMisuse m))

/-- A host that changes a cell of IBUF below LEN, touches OBUF, or gives OBUF away while a command is in flight has
its next step refused by name; changing a cell at or above LEN, or writing what a cell already holds, is no misuse
(70 R176, R177, 93 U6, U7). -/
def Obligations.HostMovesInFlightRefused : Prop :=
  ∀ s : State, s.resetPending = false → s.busy = true →
    (∀ a v, a < s.work.len → s.ibuf.read a ≠ v →
      step (s.hostWriteIbuf a v) = .refused (.hostMisuse .ibufChanged))
    ∧ (∀ a v, s.work.len ≤ a ∨ s.ibuf.read a = v → (s.hostWriteIbuf a v).misuse = s.misuse)
    ∧ step s.hostTouchObuf = .refused (.hostMisuse .obufTouched)
    ∧ step s.shareObuf = .refused (.hostMisuse .obufShared)

/-! ### Frames -/

/-- The frame of a whole command, all four operations: the presented command's word, LEN, ALLOC_OK and buffers, every
cell of its input buffer, a pending RESET and the grain are as before; IBUF is that buffer, every cell as it was handed
over; nothing is left staged. The working registers are not named: after a command none has a meaning (20 R33,
60 R147, 10 R20). Two clauses are the model's choice: the presentation is taken (log entry 7), and exec while BUSY
answers the state as it is (log entry 21). -/
def Obligations.CommandFrame : Prop :=
  ∀ (i : Instr) (s t : State), exec i s = .next t →
    t.port.cmd = s.port.cmd ∧ t.port.len = s.port.len ∧ t.port.allocOk = s.port.allocOk
    ∧ t.port.misuse = s.port.misuse ∧ t.resetPending = s.resetPending ∧ t.grain = s.grain
    ∧ t.port.input = s.port.input ∧ (∀ a, t.port.input.read a = s.port.input.read a)
    ∧ (s.busy = true → t = s)
    ∧ (s.busy = false → t.busy = false ∧ t.staged = [] ∧ t.port.valid = false ∧ t.response.isSome = true
        ∧ t.ibuf = s.port.input ∧ ∀ a, t.ibuf.read a = s.port.input.read a)

/-- The block never writes an input buffer, IBUF or the one still the host's: a step keeps every cell of both, but
that where it starts a command IBUF is from then on the buffer handed over; after any number of steps in which no
command is started, every cell of IBUF holds what it held, and otherwise it is that buffer, unchanged (20 R33). -/
def Obligations.InputNeverWritten : Prop :=
  (∀ s t : State, step s = .next t →
    t.port.input = s.port.input ∧ (∀ a, t.port.input.read a = s.port.input.read a)
    ∧ (s.resetPending = true ∨ s.busy = true ∨ s.port.valid = false →
        t.ibuf = s.ibuf ∧ ∀ a, t.ibuf.read a = s.ibuf.read a)
    ∧ (s.resetPending = false → s.busy = false → s.port.valid = true →
        t.ibuf = s.port.input ∧ ∀ a, t.ibuf.read a = s.port.input.read a))
  ∧ (∀ (k : Nat) (s t : State), runSteps k s = .next t →
      (∀ a, t.port.input.read a = s.port.input.read a)
      ∧ (s.port.valid = false → ∀ a, t.ibuf.read a = s.ibuf.read a)
      ∧ ((∀ a, t.ibuf.read a = s.ibuf.read a) ∨ ∀ a, t.ibuf.read a = s.port.input.read a))

/-- The events of HEXENC and HEXDEC neither read nor write R: with another value in R the step is the same but for
R, which keeps that value (10 R12). -/
def Obligations.HexCommandsIgnoreKeyRegister : Prop :=
  ∀ (s t : State) (x : Word), s.busy = true → s.resetPending = false →
    (s.work.op = .hexenc ∨ s.work.op = .hexdec) → step s = .next t →
    step { s with work := { s.work with r := x } } =
      .next (if t.busy then { t with work := { t.work with r := x } } else t)
    ∧ (t.busy = true → t.work.r = s.work.r)

/-! ### The cipher -/

/-- The recurrence (41 R90). -/
def Obligations.RecurrenceValue : Prop :=
  ∀ (r : Word) (fb : Byte),
    (nextR r fb).toNat = ((fb.toNat + r.toNat) * 52845 + 22719) % 65536

/-- high_byte(R) is (R >> 8) & 0xFF, which is R[15:8] (00 R5). -/
def Obligations.HighByteValue : Prop :=
  ∀ r : Word, (highByte r).toNat = ((r >>> 8) &&& 0xFF#16).toNat ∧ highByte r = r.extractLsb' 8 8

/-- The reduction mod 65536 may be applied at every operation: the recurrence in 16-bit wrapping arithmetic, and
the unreduced value never reaches 2^32 (41 R96). -/
def Obligations.RecurrenceWrapsAnywhere : Prop :=
  ∀ (r : Word) (fb : Byte),
    nextR r fb = (fb.setWidth 16 + r) * 52845#16 + 22719#16
    ∧ (fb.toNat + r.toNat) * 52845 + 22719 ≤ 3476695269
    ∧ 3476695269 < 2 ^ 32

/-- For a fixed feedback byte the recurrence is a bijection of the 16-bit values, with the inverse the rule gives
(41 R101). -/
def Obligations.RecurrenceBijective : Prop :=
  (52845 * 27493) % 65536 = 1
  ∧ (∀ (fb : Byte) (v : Word), ∃ r, nextR r fb = v ∧ ∀ r', nextR r' fb = v → r' = r)
  ∧ (∀ (fb : Byte) (r : Word),
      (r.toNat : Int) = (((nextR r fb).toNat - 22719 : Int) * 27493 - fb.toNat) % 65536)

/-- Round trip: decrypting what ENCRYPT gave from the same R0 gives the input back and the same Rfinal, and the
other way round (41 R98, read as 90 C5 says). -/
def Obligations.CipherRoundTrip : Prop :=
  ∀ (r0 : Word) (s u : State) (out : List Byte) (rf : Word), s.Ready → u.Ready → u.Granted →
    u.input = out →
    (Completes (exec (.encrypt r0) s) s (.ok out (some rf)) →
      Completes (exec (.decrypt r0) u) u (.ok s.input (some rf)))
    ∧ (Completes (exec (.decrypt r0) s) s (.ok out (some rf)) →
      Completes (exec (.encrypt r0) u) u (.ok s.input (some rf)))

/-- Chunked equivalence: a stream cut in any number of parts, empty ones too, each command given the Rfinal of the
one before, yields the same output and final register as one command over the whole, for DECRYPT and for ENCRYPT
(41 R100). -/
def Obligations.ChunkedEquivalence : Prop :=
  ∀ (r0 : Word) (parts : List (List Byte)),
    (∃ out rf, threadParts .decrypt r0 parts = some (out, rf)
      ∧ commandResponse (.decrypt r0) parts.flatten true = .ok out (some rf))
    ∧ (∃ out rf, threadParts .encrypt r0 parts = some (out, rf)
      ∧ commandResponse (.encrypt r0) parts.flatten true = .ok out (some rf))

/-! ### The hex codec -/

/-- The two tables are their closed forms: the sixteen digits and the twenty-two accepted characters (42 R111,
43 R121; the ASCII codes are from general knowledge, 93 U1, log entry 13). -/
def Obligations.HexTablesClosedForm : Prop :=
  (∀ n : Nibble, (encLut n).toNat = if n.toNat ≤ 9 then 0x30 + n.toNat else 0x41 + (n.toNat - 10))
  ∧ (∀ c : Byte, decLut c =
      if 0x30 ≤ c.toNat ∧ c.toNat ≤ 0x39 then some (BitVec.ofNat 4 (c.toNat - 0x30))
      else if 0x41 ≤ c.toNat ∧ c.toNat ≤ 0x46 then some (BitVec.ofNat 4 (c.toNat - 0x41 + 10))
      else if 0x61 ≤ c.toNat ∧ c.toNat ≤ 0x66 then some (BitVec.ofNat 4 (c.toNat - 0x61 + 10))
      else none)

/-- HEXENC output is always uppercase: every cell is a character of the alphabet and folding leaves it as it is,
for every value of the command word and of the input (42 R112, R113). -/
def Obligations.HexencAlwaysUppercase : Prop :=
  ∀ (x : Word) (s : State) (rsp : Response), s.Ready → Completes (exec (.hexenc x) s) s rsp →
    ∀ c, c ∈ rsp.out → c ∈ Config.hexAlphabet ∧ foldUpper c = c

/-- HEXDEC gives back every buffer HEXENC encoded, and gives the same result for texts that differ in case only
(43 R130). -/
def Obligations.HexRoundTripAndCase : Prop :=
  (∀ (x y : Word) (s u : State) (out : List Byte), s.Ready → u.Ready → u.Granted → u.input = out →
      Completes (exec (.hexenc x) s) s (.ok out none) →
      Completes (exec (.hexdec y) u) u (.ok s.input none))
  ∧ (∀ (x : Word) (s u : State) (rsp : Response), s.Ready → u.Ready →
      u.port.len = s.port.len → u.port.allocOk = s.port.allocOk →
      (∀ k, k < s.port.len → foldUpper (u.port.input.read k) = foldUpper (s.port.input.read k)) →
      Completes (exec (.hexdec x) s) s rsp → Completes (exec (.hexdec x) u) u rsp)

/-- HEXENC is injective (42 R114). -/
def Obligations.HexencInjective : Prop :=
  ∀ (x y : Word) (b c : List Byte),
    commandResponse (.hexenc x) b true = commandResponse (.hexenc y) c true → b = c

/-- HEXENC distributes over concatenation at any split (42 R115). -/
def Obligations.HexencConcatenation : Prop :=
  ∀ (x : Word) (b c : List Byte), ∃ ob oc,
    commandResponse (.hexenc x) b true = .ok ob none
    ∧ commandResponse (.hexenc x) c true = .ok oc none
    ∧ commandResponse (.hexenc x) (b ++ c) true = .ok (ob ++ oc) none

/-- Encoding what HEXDEC accepted gives the text with its small letters replaced by their capitals, and the text
itself exactly when it holds no small letter `a` to `f` (43 R131). The small letters as the codes 0x61 to 0x66, and
the folding to capitals by ASCII, are presumed (93 U1, log entry 13). -/
def Obligations.HexdecThenHexenc : Prop :=
  ∀ (x y : Word) (t out : List Byte), commandResponse (.hexdec x) t true = .ok out none →
    commandResponse (.hexenc y) out true = .ok (t.map foldUpper) none
    ∧ (commandResponse (.hexenc y) out true = .ok t none ↔
        ∀ c, c ∈ t → ¬ (0x61 ≤ c.toNat ∧ c.toNat ≤ 0x66))

/-- HEXDEC distributes over concatenation at an even split: the whole succeeds exactly when both parts do, and is
then their concatenation; at an odd split it need not (43 R131). -/
def Obligations.HexdecEvenSplit : Prop :=
  (∀ (x : Word) (t u : List Byte), t.length % 2 = 0 →
    ((∃ out, commandResponse (.hexdec x) (t ++ u) true = .ok out none) ↔
      (∃ ot, commandResponse (.hexdec x) t true = .ok ot none)
      ∧ (∃ ou, commandResponse (.hexdec x) u true = .ok ou none))
    ∧ (∀ ot ou, commandResponse (.hexdec x) t true = .ok ot none →
        commandResponse (.hexdec x) u true = .ok ou none →
        commandResponse (.hexdec x) (t ++ u) true = .ok (ot ++ ou) none))
  ∧ (∃ (t u out : List Byte), ∀ x : Word,
      commandResponse (.hexdec x) (t ++ u) true = .ok out none
      ∧ commandResponse (.hexdec x) t true = .err .oddLength
      ∧ commandResponse (.hexdec x) u true = .err .oddLength)

/-- The PFA flow: ENCRYPT then HEXENC writes a section, HEXDEC then DECRYPT from the same R0 reads it back, with
the same Rfinal (70 R181, 41 R98, 43 R130). -/
def Obligations.PfaFlowReturnsSection : Prop :=
  ∀ (r0 x y : Word) (plain : List Byte), ∃ cipher text rf,
    commandResponse (.encrypt r0) plain true = .ok cipher (some rf)
    ∧ commandResponse (.hexenc x) cipher true = .ok text none
    ∧ commandResponse (.hexdec y) text true = .ok cipher none
    ∧ commandResponse (.decrypt r0) cipher true = .ok plain (some rf)

/-! ### What a command depends on -/

/-- Every response is a function of the command alone: OP, R0 for the cipher, the input cells and ALLOC_OK give it,
on one instance or on two, whatever the states were (00 R6). -/
def Obligations.ResponseFunctionOfCommand : Prop :=
  ∀ (i j : Instr) (s u : State), s.Ready → u.Ready → opOf i = opOf j →
    (opOf i = .decrypt ∨ opOf i = .encrypt → r0Of i = r0Of j) →
    s.input = u.input → s.port.allocOk = u.port.allocOk →
    ∃ rsp, rsp = commandResponse i s.input s.port.allocOk
      ∧ Completes (exec i s) s rsp ∧ Completes (exec j u) u rsp

/-- No command reads what an earlier one left: with any other working registers, staged cells, IBUF and response in the
idle instance the outcome is the same (10 R11, R20). -/
def Obligations.EarlierCommandsLeaveNoTrace : Prop :=
  ∀ (i : Instr) (s : State) (w : Work) (m b : Memory) (rsp : Option Response), s.busy = false →
    exec i { s with work := w, staged := m, ibuf := b, response := rsp } = exec i s

/-- After a failure, and after a RESET, the next command is answered as if what came before had never been issued
(60 R149, 70 R170, R172). -/
def Obligations.NextCommandAsIfFirst : Prop :=
  (∀ (i j : Instr) (s t : State) (f : Failure) (p : Port), s.Ready → p.misuse = none →
      exec i s = .next t → t.response = some (.err f) →
      ∃ rsp, Completes (exec j { t with port := p }) { t with port := p } rsp
        ∧ Completes (exec j { s with port := p }) { s with port := p } rsp)
  ∧ (∀ (j : Instr) (s t : State) (p : Port), s.resetPending = true → p.misuse = none → step s = .next t →
      ∃ rsp, Completes (exec j { t with port := p }) { t with port := p } rsp
        ∧ Completes (exec j { s with port := p, busy := false }) { s with port := p, busy := false } rsp)

/-- A command that a pre-check fails reads no input cell: with any other contents of its buffer its response is the same
(20 R34, 40 R72, R73). -/
def Obligations.PrecheckFailureReadsNoCell : Prop :=
  ∀ (i : Instr) (s : State) (m : Memory) (f : Failure), s.Ready →
    precheck (opOf i) s.port.len s.port.allocOk = some f →
    Completes (exec i s) s (.err f)
    ∧ Completes (exec i { s with port := { s.port with input := m } })
        { s with port := { s.port with input := m } } (.err f)

/-- A beat reads cell I of IBUF and no other: with other contents that agree there, the step is the same but for
IBUF (20 R34, 40 R74). -/
def Obligations.BeatReadsOneCell : Prop :=
  ∀ (s t : State) (m : Memory), s.BeatEnabled → m.read s.work.i = s.ibuf.read s.work.i →
    step s = .next t → step { s with ibuf := m } = .next { t with ibuf := m }

/-- Steps of two instances do not disturb one another: taken in either order they leave the same states (60 R156). -/
def Obligations.InstancesIndependent : Prop :=
  ∀ (j k : Nat) (all mid last : List State), j ≠ k →
    stepInstance j all = .next mid → stepInstance k mid = .next last →
    ∃ mid', stepInstance k all = .next mid' ∧ stepInstance j mid' = .next last
      ∧ ∀ n, n ≠ j → mid[n]? = all[n]?

/-! ### Invariants, refinement, termination -/

/-- Reset leaves the block idle, with no response pending, and the invariant holds (10 R21). The other values of the
reset state are the model's (log entries 1, 3, 6, 7, 8, 10, 18). -/
def Obligations.ResetIdleAndInvariant : Prop :=
  State.reset.busy = false ∧ State.reset.response = none ∧ State.reset.staged = [] ∧ State.reset.Inv

/-- Every step keeps the invariant: canonical buffers, and a command in flight with I at most LEN, OLEN the count of
cells staged, all below OLEN, BAD exactly as the characters read say (10 R13, R16, R17, R20). -/
def Obligations.StepKeepsInvariant : Prop :=
  ∀ s t : State, s.Inv → step s = .next t → t.Inv

/-- The counters never wrap: for any width LEN_W that LEN fits, I and OLEN fit LEN_W + 1 bits, and I is at most LEN
(10 R13, R17). -/
def Obligations.CountersFitTheirWidths : Prop :=
  ∀ (lenW : Nat) (s : State), s.Inv → s.busy = true → lenFits lenW s.work.len = true →
    s.work.i ≤ s.work.len ∧ s.work.i < 2 ^ (lenW + 1) ∧ s.work.olen < 2 ^ (lenW + 1)

/-- No step of an instance faults, and one that is refused is refused for the host's misuse of the buffers and
nothing else (60 R140, R148; 93 U6, U7). -/
def Obligations.StepNeverFaults : Prop :=
  ∀ s : State, s.Inv →
    (∀ f, step s ≠ .fault f)
    ∧ ∀ r, step s = .refused r → ∃ m, r = .hostMisuse m ∧ (s.misuse = some m ∨ s.port.misuse = some m)

/-- The events compute the command: from an idle instance with a command presented, ACCEPT, exactly LEN beats (none
if a pre-check fails) and RESPOND reach the very state the whole-command step does, and until then the block is
BUSY with no response (40 R75, R78, R80; 43 R128). -/
def Obligations.EventsRefineCommand : Prop :=
  ∀ s : State, s.Ready → s.resetPending = false → s.port.valid = true → s.grain = .event →
    runSteps (beatCount (opOf s.presentedInstr) s.port.len s.port.allocOk + 2) s = exec s.presentedInstr s
    ∧ ∀ k, 1 ≤ k → k ≤ beatCount (opOf s.presentedInstr) s.port.len s.port.allocOk + 1 →
        ∃ t, runSteps k s = .next t ∧ t.busy = true ∧ t.response = none

/-- Termination: a command in flight is answered after at most LEN - I beats and one RESPOND (40 R80). -/
def Obligations.BusyCommandAnswered : Prop :=
  ∀ s : State, s.Inv → s.InFlight →
    ∃ k t, k ≤ s.work.len - s.work.i + 1 ∧ runSteps k s = .next t ∧ t.busy = false ∧ t.response.isSome = true

/-! ### The host's liberties -/

/-- While BUSY the host may present a command, withdraw it, and change the waiting command's input buffer: the step is
the same but for that command, no response to it and no refusal comes of it, and the buffer as the host left it is the
input of the command that waits (70 R182, 40 R79, 20 R32, R41; where the waiting buffer stands is the model's choice,
log entry 7). -/
def Obligations.HostMayUseWaitingBuffer : Prop :=
  ∀ s t : State, s.busy = true → step s = .next t →
    (∀ cmd b alloc, step (s.present cmd b alloc) = .next (t.present cmd b alloc)
      ∧ (t.present cmd b alloc).input = b)
    ∧ step s.withdraw = .next t.withdraw
    ∧ (∀ a v, step (s.hostWriteInput a v) = .next (t.hostWriteInput a v))
    ∧ (∀ b, step (s.placeInput b) = .next (t.placeInput b)
      ∧ (b.length = s.port.len → (t.placeInput b).input = b))
end

