-- ==== Sys2Proof/Laws/Memory.lean ====
section
/-!
SUPPORT. The laws of a buffer space: a read after a write, the canonical form kept by every operation, equal
reads give equal spaces, and the cells of a space as a list.
-/
namespace Sys2Proof.Machine

@[simp] theorem Memory.read_nil (a : Nat) : Memory.read [] a = Memory.unlisted := rfl

@[simp] theorem Memory.wf_nil : Memory.wf [] = true := rfl

theorem Memory.wf_cons (a : Nat) (v : Byte) (m : Memory) :
    Memory.wf ((a, v) :: m) = true ↔
      v ≠ Memory.unlisted ∧ (∀ c ∈ m, a < c.1) ∧ Memory.wf m = true := by
  simp [Memory.wf, and_assoc]

/-- Below every listed address a space reads as unlisted. -/
theorem Memory.read_below (m : Memory) (a : Nat) (h : ∀ c ∈ m, a < c.1) :
    Memory.read m a = Memory.unlisted := by
  induction m with
  | nil => rfl
  | cons c m ih =>
    have hc : a ≠ c.1 := Nat.ne_of_lt (h c (by simp))
    simp [Memory.read, hc, ih (fun d hd => h d (by simp [hd]))]

/-- A read after a write: the value written at its address, what was there at every other. -/
theorem Memory.read_write (m : Memory) (a : Nat) (v : Byte) (x : Nat) (hm : m.wf = true) :
    Memory.read (m.write a v) x = if x = a then v else Memory.read m x := by
  induction m with
  | nil => by_cases hv : v = Memory.unlisted <;> by_cases hx : x = a <;> simp [Memory.write, Memory.read, hv, hx]
  | cons c m ih =>
    obtain ⟨b, w⟩ := c
    obtain ⟨_, hb, hwf⟩ := (Memory.wf_cons b w m).1 hm
    have hbelow := Memory.read_below m b hb
    rcases Nat.lt_trichotomy a b with hab | hab | hab
    · have hlow : Memory.read ((b, w) :: m) a = Memory.unlisted :=
        Memory.read_below _ a (by
          intro d hd
          rcases List.mem_cons.1 hd with rfl | hd
          · exact hab
          · exact Nat.lt_trans hab (hb d hd))
      by_cases hv : v = Memory.unlisted
      · by_cases hx : x = a
        · subst hx; simpa [Memory.write, hab, hv] using hlow
        · simp [Memory.write, hab, hv, hx]
      · simp [Memory.write, hab, hv, Memory.read]
    · subst hab
      by_cases hv : v = Memory.unlisted <;> by_cases hx : x = a <;>
        simp [Memory.write, Memory.read, hv, hx, hbelow]
    · have h1 : ¬ a < b := by omega
      have h2 : ¬ a = b := by omega
      simp only [Memory.write, h1, h2, if_false, Memory.read, ih hwf]
      by_cases hx : x = b
      · subst hx; simp [Ne.symm h2]
      · simp [hx]

theorem Memory.mem_write (m : Memory) (a : Nat) (v : Byte) (c : Host.Cell) (h : c ∈ m.write a v) :
    c ∈ m ∨ c = (a, v) := by
  induction m with
  | nil =>
    by_cases hv : v = Memory.unlisted <;> simp [Memory.write, hv] at h
    exact .inr h
  | cons d m ih =>
    obtain ⟨b, w⟩ := d
    simp only [Memory.write] at h
    split at h
    · split at h
      · exact .inl h
      · rcases List.mem_cons.1 h with h | h
        · exact .inr h
        · exact .inl h
    · split at h
      · split at h
        · exact .inl (List.mem_cons_of_mem _ h)
        · rcases List.mem_cons.1 h with h | h
          · exact .inr h
          · exact .inl (List.mem_cons_of_mem _ h)
      · rcases List.mem_cons.1 h with h | h
        · exact .inl (by simp [h])
        · rcases ih h with h | h
          · exact .inl (List.mem_cons_of_mem _ h)
          · exact .inr h

/-- A write keeps the canonical form. -/
theorem Memory.wf_write (m : Memory) (a : Nat) (v : Byte) (hm : m.wf = true) : (m.write a v).wf = true := by
  induction m with
  | nil => by_cases hv : v = Memory.unlisted <;> simp [Memory.write, hv, Memory.wf]
  | cons c m ih =>
    obtain ⟨b, w⟩ := c
    obtain ⟨hw, hb, hwf⟩ := (Memory.wf_cons b w m).1 hm
    rcases Nat.lt_trichotomy a b with hab | hab | hab
    · by_cases hv : v = Memory.unlisted
      · simpa [Memory.write, hab, hv] using hm
      · simp only [Memory.write, hab, hv, if_true, if_false]
        refine (Memory.wf_cons a v _).2 ⟨hv, ?_, hm⟩
        intro d hd
        rcases List.mem_cons.1 hd with rfl | hd
        · exact hab
        · exact Nat.lt_trans hab (hb d hd)
    · subst hab
      by_cases hv : v = Memory.unlisted
      · simpa [Memory.write, hv] using hwf
      · simp only [Memory.write, Nat.lt_irrefl, hv, if_true, if_false]
        exact (Memory.wf_cons a v m).2 ⟨hv, hb, hwf⟩
    · have h1 : ¬ a < b := by omega
      have h2 : ¬ a = b := by omega
      simp only [Memory.write, h1, h2, if_false]
      refine (Memory.wf_cons b w _).2 ⟨hw, ?_, ih hwf⟩
      intro d hd
      rcases Memory.mem_write m a v d hd with hd | rfl
      · exact hb d hd
      · exact hab

/-- The cells placed from `a` on lie at `a` and above. -/
theorem Memory.le_of_mem_placeFrom (vs : List Byte) (a : Nat) (c : Host.Cell)
    (h : c ∈ Memory.placeFrom a vs) : a ≤ c.1 := by
  induction vs generalizing a with
  | nil => simp [Memory.placeFrom] at h
  | cons v vs ih =>
    simp only [Memory.placeFrom] at h
    split at h
    · have := ih (a + 1) h; omega
    · rcases List.mem_cons.1 h with rfl | h
      · exact Nat.le_refl _
      · have := ih (a + 1) h; omega

/-- Placing a buffer gives the canonical form. -/
theorem Memory.wf_placeFrom (vs : List Byte) (a : Nat) : (Memory.placeFrom a vs).wf = true := by
  induction vs generalizing a with
  | nil => rfl
  | cons v vs ih =>
    simp only [Memory.placeFrom]
    split
    · exact ih (a + 1)
    · rename_i hv
      exact (Memory.wf_cons a v _).2
        ⟨hv, fun c hc => Memory.le_of_mem_placeFrom vs (a + 1) c hc, ih (a + 1)⟩

/-- What a placed buffer reads as: its own cells, and unlisted above them. -/
theorem Memory.read_placeFrom (vs : List Byte) (a k : Nat) :
    Memory.read (Memory.placeFrom a vs) (a + k) = vs.getD k Memory.unlisted := by
  induction vs generalizing a k with
  | nil => simp [Memory.placeFrom]
  | cons v vs ih =>
    simp only [Memory.placeFrom]
    cases k with
    | zero =>
      split
      · rename_i hv
        rw [Memory.read_below]
        · simp [hv]
        · intro c hc; have := Memory.le_of_mem_placeFrom vs (a + 1) c hc; omega
      · simp [Memory.read]
    | succ k =>
      have hk : a + (k + 1) = a + 1 + k := by omega
      rw [hk]
      split
      · simpa using ih (a + 1) k
      · have hne : ¬ a + 1 + k = a := by omega
        simpa [Memory.read, hne] using ih (a + 1) k

/-- Two spaces in canonical form that read alike everywhere are the same data. -/
theorem Memory.eq_of_reads (m n : Memory) (hm : m.wf = true) (hn : n.wf = true)
    (h : ∀ a, Memory.read m a = Memory.read n a) : m = n := by
  induction m generalizing n with
  | nil =>
    cases n with
    | nil => rfl
    | cons d n =>
      obtain ⟨hw, _, _⟩ := (Memory.wf_cons d.1 d.2 n).1 hn
      exact absurd (by simpa [Memory.read] using (h d.1).symm) hw
  | cons c m ih =>
    obtain ⟨a, v⟩ := c
    obtain ⟨hv, ha, hmw⟩ := (Memory.wf_cons a v m).1 hm
    cases n with
    | nil => exact absurd (by simpa [Memory.read] using h a) hv
    | cons d n =>
      obtain ⟨b, w⟩ := d
      obtain ⟨hw, hb, hnw⟩ := (Memory.wf_cons b w n).1 hn
      have hab : a = b := by
        rcases Nat.lt_trichotomy a b with hab | hab | hab
        · have h1 := h a
          rw [Memory.read_below ((b, w) :: n) a (by
            intro d hd
            rcases List.mem_cons.1 hd with rfl | hd
            · exact hab
            · exact Nat.lt_trans hab (hb d hd))] at h1
          exact absurd (by simpa [Memory.read] using h1) hv
        · exact hab
        · have h1 := h b
          rw [Memory.read_below ((a, v) :: m) b (by
            intro d hd
            rcases List.mem_cons.1 hd with rfl | hd
            · exact hab
            · exact Nat.lt_trans hab (ha d hd))] at h1
          exact absurd (by simpa [Memory.read] using h1.symm) hw
      subst hab
      have hvw : v = w := by simpa [Memory.read] using h a
      subst hvw
      refine congrArg _ (ih n hmw hnw ?_)
      intro x
      by_cases hx : x = a
      · subst hx; rw [Memory.read_below m x ha, Memory.read_below n x hb]
      · simpa [Memory.read, hx] using h x

@[simp] theorem Memory.cellsFrom_length (m : Memory) (a n : Nat) : (m.cellsFrom a n).length = n := by
  induction n generalizing a with
  | zero => rfl
  | succ n ih => simp [Memory.cellsFrom, ih]

@[simp] theorem Memory.cells_length (m : Memory) (n : Nat) : (m.cells n).length = n :=
  Memory.cellsFrom_length m 0 n

/-- One cell more, at the end. -/
theorem Memory.cellsFrom_succ_last (m : Memory) (a n : Nat) :
    m.cellsFrom a (n + 1) = m.cellsFrom a n ++ [m.read (a + n)] := by
  induction n generalizing a with
  | zero => simp [Memory.cellsFrom]
  | succ n ih =>
    have h : a + (n + 1) = a + 1 + n := by omega
    rw [Memory.cellsFrom, ih (a + 1), h]
    simp [Memory.cellsFrom]

theorem Memory.cells_succ (m : Memory) (n : Nat) : m.cells (n + 1) = m.cells n ++ [m.read n] := by
  simpa [Memory.cells] using Memory.cellsFrom_succ_last m 0 n

@[simp] theorem Memory.cells_zero (m : Memory) : m.cells 0 = [] := rfl

theorem Memory.cells_getElem (m : Memory) (n k : Nat) (hk : k < n) : (m.cells n)[k]? = some (m.read k) := by
  induction n with
  | zero => omega
  | succ n ih =>
    rw [Memory.cells_succ]
    rcases Nat.lt_succ_iff_lt_or_eq.1 hk with hk | rfl
    · rw [List.getElem?_append_left (by simpa using hk)]; exact ih hk
    · rw [List.getElem?_append_right (by simp)]; simp

/-- Cells depend on the reads below their count only. -/
theorem Memory.cells_congr (m m' : Memory) (n : Nat) (h : ∀ k, k < n → m.read k = m'.read k) :
    m.cells n = m'.cells n := by
  induction n with
  | zero => rfl
  | succ n ih =>
    rw [Memory.cells_succ, Memory.cells_succ, ih (fun k hk => h k (by omega)), h n (by omega)]

/-- Writing cell n, the next one, appends its value to the cells. -/
theorem Memory.cells_write_next (m : Memory) (n : Nat) (v : Byte) (hm : m.wf = true) :
    (m.write n v).cells (n + 1) = m.cells n ++ [v] := by
  rw [Memory.cells_succ, Memory.read_write m n v n hm]
  congr 1
  · refine Memory.cells_congr _ _ n (fun k hk => ?_)
    rw [Memory.read_write m n v k hm, if_neg (by omega)]
  · simp

/-- A placed buffer gives its own cells back. -/
theorem Memory.cells_placeFrom (vs : List Byte) : (Memory.placeFrom 0 vs).cells vs.length = vs := by
  refine List.ext_getElem? (fun k => ?_)
  by_cases hk : k < vs.length
  · rw [Memory.cells_getElem _ _ _ hk]
    have := Memory.read_placeFrom vs 0 k
    rw [Nat.zero_add] at this
    rw [this]; simp [hk]
  · rw [List.getElem?_eq_none (by simpa using hk), List.getElem?_eq_none (by simpa using hk)]

end Sys2Proof.Machine
end

