-- ==== Sys2Proof/Laws/State.lean ====
section
/-!
SUPPORT. One lemma per field per update of the state, each true by rfl, so that no later proof unfolds a
record update.
-/
namespace Sys2Proof.Machine

/-! ### Staging an output cell -/

@[simp] theorem State.stage_busy (s : State) (v : Byte) : (s.stage v).busy = s.busy := rfl
@[simp] theorem State.stage_staged (s : State) (v : Byte) : (s.stage v).staged = s.staged.write s.work.olen v := rfl
@[simp] theorem State.stage_ibuf (s : State) (v : Byte) : (s.stage v).ibuf = s.ibuf := rfl
@[simp] theorem State.stage_response (s : State) (v : Byte) : (s.stage v).response = s.response := rfl
@[simp] theorem State.stage_port (s : State) (v : Byte) : (s.stage v).port = s.port := rfl
@[simp] theorem State.stage_resetPending (s : State) (v : Byte) : (s.stage v).resetPending = s.resetPending := rfl
@[simp] theorem State.stage_misuse (s : State) (v : Byte) : (s.stage v).misuse = s.misuse := rfl
@[simp] theorem State.stage_grain (s : State) (v : Byte) : (s.stage v).grain = s.grain := rfl
@[simp] theorem State.stage_draws (s : State) (v : Byte) : (s.stage v).draws = s.draws := rfl
@[simp] theorem State.stage_work_op (s : State) (v : Byte) : (s.stage v).work.op = s.work.op := rfl
@[simp] theorem State.stage_work_len (s : State) (v : Byte) : (s.stage v).work.len = s.work.len := rfl
@[simp] theorem State.stage_work_alloc (s : State) (v : Byte) : (s.stage v).work.alloc = s.work.alloc := rfl
@[simp] theorem State.stage_work_r (s : State) (v : Byte) : (s.stage v).work.r = s.work.r := rfl
@[simp] theorem State.stage_work_i (s : State) (v : Byte) : (s.stage v).work.i = s.work.i := rfl
@[simp] theorem State.stage_work_hi (s : State) (v : Byte) : (s.stage v).work.hi = s.work.hi := rfl
@[simp] theorem State.stage_work_bad (s : State) (v : Byte) : (s.stage v).work.bad = s.work.bad := rfl
@[simp] theorem State.stage_work_olen (s : State) (v : Byte) : (s.stage v).work.olen = s.work.olen + 1 := rfl
@[simp] theorem State.stage_work_precheck (s : State) (v : Byte) :
    (s.stage v).work.precheck = s.work.precheck := rfl
@[simp] theorem State.stage_work_secondOfPair (s : State) (v : Byte) :
    (s.stage v).work.secondOfPair = s.work.secondOfPair := rfl
@[simp] theorem State.stage_loadCell (s : State) (v : Byte) : (s.stage v).loadCell = s.loadCell := rfl

/-! ### Writing R -/

@[simp] theorem State.setR_busy (s : State) (r : Word) : (s.setR r).busy = s.busy := rfl
@[simp] theorem State.setR_staged (s : State) (r : Word) : (s.setR r).staged = s.staged := rfl
@[simp] theorem State.setR_ibuf (s : State) (r : Word) : (s.setR r).ibuf = s.ibuf := rfl
@[simp] theorem State.setR_response (s : State) (r : Word) : (s.setR r).response = s.response := rfl
@[simp] theorem State.setR_port (s : State) (r : Word) : (s.setR r).port = s.port := rfl
@[simp] theorem State.setR_resetPending (s : State) (r : Word) : (s.setR r).resetPending = s.resetPending := rfl
@[simp] theorem State.setR_misuse (s : State) (r : Word) : (s.setR r).misuse = s.misuse := rfl
@[simp] theorem State.setR_grain (s : State) (r : Word) : (s.setR r).grain = s.grain := rfl
@[simp] theorem State.setR_draws (s : State) (r : Word) : (s.setR r).draws = s.draws := rfl
@[simp] theorem State.setR_work_op (s : State) (r : Word) : (s.setR r).work.op = s.work.op := rfl
@[simp] theorem State.setR_work_len (s : State) (r : Word) : (s.setR r).work.len = s.work.len := rfl
@[simp] theorem State.setR_work_alloc (s : State) (r : Word) : (s.setR r).work.alloc = s.work.alloc := rfl
@[simp] theorem State.setR_work_r (s : State) (r : Word) : (s.setR r).work.r = r := rfl
@[simp] theorem State.setR_work_i (s : State) (r : Word) : (s.setR r).work.i = s.work.i := rfl
@[simp] theorem State.setR_work_hi (s : State) (r : Word) : (s.setR r).work.hi = s.work.hi := rfl
@[simp] theorem State.setR_work_bad (s : State) (r : Word) : (s.setR r).work.bad = s.work.bad := rfl
@[simp] theorem State.setR_work_olen (s : State) (r : Word) : (s.setR r).work.olen = s.work.olen := rfl
@[simp] theorem State.setR_work_precheck (s : State) (r : Word) : (s.setR r).work.precheck = s.work.precheck := rfl
@[simp] theorem State.setR_work_secondOfPair (s : State) (r : Word) :
    (s.setR r).work.secondOfPair = s.work.secondOfPair := rfl
@[simp] theorem State.setR_loadCell (s : State) (r : Word) : (s.setR r).loadCell = s.loadCell := rfl

/-! ### Writing HI -/

@[simp] theorem State.setHi_busy (s : State) (h : Nibble) : (s.setHi h).busy = s.busy := rfl
@[simp] theorem State.setHi_staged (s : State) (h : Nibble) : (s.setHi h).staged = s.staged := rfl
@[simp] theorem State.setHi_ibuf (s : State) (h : Nibble) : (s.setHi h).ibuf = s.ibuf := rfl
@[simp] theorem State.setHi_response (s : State) (h : Nibble) : (s.setHi h).response = s.response := rfl
@[simp] theorem State.setHi_port (s : State) (h : Nibble) : (s.setHi h).port = s.port := rfl
@[simp] theorem State.setHi_resetPending (s : State) (h : Nibble) : (s.setHi h).resetPending = s.resetPending := rfl
@[simp] theorem State.setHi_misuse (s : State) (h : Nibble) : (s.setHi h).misuse = s.misuse := rfl
@[simp] theorem State.setHi_grain (s : State) (h : Nibble) : (s.setHi h).grain = s.grain := rfl
@[simp] theorem State.setHi_draws (s : State) (h : Nibble) : (s.setHi h).draws = s.draws := rfl
@[simp] theorem State.setHi_work_op (s : State) (h : Nibble) : (s.setHi h).work.op = s.work.op := rfl
@[simp] theorem State.setHi_work_len (s : State) (h : Nibble) : (s.setHi h).work.len = s.work.len := rfl
@[simp] theorem State.setHi_work_alloc (s : State) (h : Nibble) : (s.setHi h).work.alloc = s.work.alloc := rfl
@[simp] theorem State.setHi_work_r (s : State) (h : Nibble) : (s.setHi h).work.r = s.work.r := rfl
@[simp] theorem State.setHi_work_i (s : State) (h : Nibble) : (s.setHi h).work.i = s.work.i := rfl
@[simp] theorem State.setHi_work_hi (s : State) (h : Nibble) : (s.setHi h).work.hi = h := rfl
@[simp] theorem State.setHi_work_bad (s : State) (h : Nibble) : (s.setHi h).work.bad = s.work.bad := rfl
@[simp] theorem State.setHi_work_olen (s : State) (h : Nibble) : (s.setHi h).work.olen = s.work.olen := rfl
@[simp] theorem State.setHi_work_precheck (s : State) (h : Nibble) :
    (s.setHi h).work.precheck = s.work.precheck := rfl
@[simp] theorem State.setHi_work_secondOfPair (s : State) (h : Nibble) :
    (s.setHi h).work.secondOfPair = s.work.secondOfPair := rfl
@[simp] theorem State.setHi_loadCell (s : State) (h : Nibble) : (s.setHi h).loadCell = s.loadCell := rfl

/-! ### Writing BAD -/

@[simp] theorem State.setBad_busy (s : State) (b : Bool) : (s.setBad b).busy = s.busy := rfl
@[simp] theorem State.setBad_staged (s : State) (b : Bool) : (s.setBad b).staged = s.staged := rfl
@[simp] theorem State.setBad_ibuf (s : State) (b : Bool) : (s.setBad b).ibuf = s.ibuf := rfl
@[simp] theorem State.setBad_response (s : State) (b : Bool) : (s.setBad b).response = s.response := rfl
@[simp] theorem State.setBad_port (s : State) (b : Bool) : (s.setBad b).port = s.port := rfl
@[simp] theorem State.setBad_resetPending (s : State) (b : Bool) : (s.setBad b).resetPending = s.resetPending := rfl
@[simp] theorem State.setBad_misuse (s : State) (b : Bool) : (s.setBad b).misuse = s.misuse := rfl
@[simp] theorem State.setBad_grain (s : State) (b : Bool) : (s.setBad b).grain = s.grain := rfl
@[simp] theorem State.setBad_draws (s : State) (b : Bool) : (s.setBad b).draws = s.draws := rfl
@[simp] theorem State.setBad_work_op (s : State) (b : Bool) : (s.setBad b).work.op = s.work.op := rfl
@[simp] theorem State.setBad_work_len (s : State) (b : Bool) : (s.setBad b).work.len = s.work.len := rfl
@[simp] theorem State.setBad_work_alloc (s : State) (b : Bool) : (s.setBad b).work.alloc = s.work.alloc := rfl
@[simp] theorem State.setBad_work_r (s : State) (b : Bool) : (s.setBad b).work.r = s.work.r := rfl
@[simp] theorem State.setBad_work_i (s : State) (b : Bool) : (s.setBad b).work.i = s.work.i := rfl
@[simp] theorem State.setBad_work_hi (s : State) (b : Bool) : (s.setBad b).work.hi = s.work.hi := rfl
@[simp] theorem State.setBad_work_bad (s : State) (b : Bool) : (s.setBad b).work.bad = b := rfl
@[simp] theorem State.setBad_work_olen (s : State) (b : Bool) : (s.setBad b).work.olen = s.work.olen := rfl
@[simp] theorem State.setBad_work_precheck (s : State) (b : Bool) :
    (s.setBad b).work.precheck = s.work.precheck := rfl
@[simp] theorem State.setBad_work_secondOfPair (s : State) (b : Bool) :
    (s.setBad b).work.secondOfPair = s.work.secondOfPair := rfl
@[simp] theorem State.setBad_loadCell (s : State) (b : Bool) : (s.setBad b).loadCell = s.loadCell := rfl

/-! ### Advancing I -/

@[simp] theorem State.advance_busy (s : State) : (s.advance).busy = s.busy := rfl
@[simp] theorem State.advance_staged (s : State) : (s.advance).staged = s.staged := rfl
@[simp] theorem State.advance_ibuf (s : State) : (s.advance).ibuf = s.ibuf := rfl
@[simp] theorem State.advance_response (s : State) : (s.advance).response = s.response := rfl
@[simp] theorem State.advance_port (s : State) : (s.advance).port = s.port := rfl
@[simp] theorem State.advance_resetPending (s : State) : (s.advance).resetPending = s.resetPending := rfl
@[simp] theorem State.advance_misuse (s : State) : (s.advance).misuse = s.misuse := rfl
@[simp] theorem State.advance_grain (s : State) : (s.advance).grain = s.grain := rfl
@[simp] theorem State.advance_draws (s : State) : (s.advance).draws = s.draws := rfl
@[simp] theorem State.advance_work_op (s : State) : (s.advance).work.op = s.work.op := rfl
@[simp] theorem State.advance_work_len (s : State) : (s.advance).work.len = s.work.len := rfl
@[simp] theorem State.advance_work_alloc (s : State) : (s.advance).work.alloc = s.work.alloc := rfl
@[simp] theorem State.advance_work_r (s : State) : (s.advance).work.r = s.work.r := rfl
@[simp] theorem State.advance_work_i (s : State) : (s.advance).work.i = s.work.i + 1 := rfl
@[simp] theorem State.advance_work_hi (s : State) : (s.advance).work.hi = s.work.hi := rfl
@[simp] theorem State.advance_work_bad (s : State) : (s.advance).work.bad = s.work.bad := rfl
@[simp] theorem State.advance_work_olen (s : State) : (s.advance).work.olen = s.work.olen := rfl
@[simp] theorem State.advance_work_precheck (s : State) : (s.advance).work.precheck = s.work.precheck := rfl

/-! ### The handover at ACCEPT -/

@[simp] theorem State.takePresented_busy (s : State) : (s.takePresented).busy = s.busy := rfl
@[simp] theorem State.takePresented_staged (s : State) : (s.takePresented).staged = s.staged := rfl
@[simp] theorem State.takePresented_ibuf (s : State) : (s.takePresented).ibuf = s.port.input := rfl
@[simp] theorem State.takePresented_response (s : State) : (s.takePresented).response = s.response := rfl
@[simp] theorem State.takePresented_port (s : State) :
    (s.takePresented).port = { s.port with valid := false } := rfl
@[simp] theorem State.takePresented_resetPending (s : State) :
    (s.takePresented).resetPending = s.resetPending := rfl
@[simp] theorem State.takePresented_misuse (s : State) : (s.takePresented).misuse = none := rfl
@[simp] theorem State.takePresented_grain (s : State) : (s.takePresented).grain = s.grain := rfl
@[simp] theorem State.takePresented_draws (s : State) : (s.takePresented).draws = s.draws := rfl
@[simp] theorem State.takePresented_work (s : State) : (s.takePresented).work = s.work := rfl

/-! ### ACCEPT -/

@[simp] theorem State.accept_busy (s : State) (op : Op) (r0 : Option Word) : (s.accept op r0).busy = true := rfl
@[simp] theorem State.accept_staged (s : State) (op : Op) (r0 : Option Word) : (s.accept op r0).staged = [] := rfl
@[simp] theorem State.accept_ibuf (s : State) (op : Op) (r0 : Option Word) :
    (s.accept op r0).ibuf = s.port.input := rfl
@[simp] theorem State.accept_response (s : State) (op : Op) (r0 : Option Word) :
    (s.accept op r0).response = none := rfl
@[simp] theorem State.accept_port (s : State) (op : Op) (r0 : Option Word) :
    (s.accept op r0).port = { s.port with valid := false } := rfl
@[simp] theorem State.accept_resetPending (s : State) (op : Op) (r0 : Option Word) :
    (s.accept op r0).resetPending = s.resetPending := rfl
@[simp] theorem State.accept_misuse (s : State) (op : Op) (r0 : Option Word) : (s.accept op r0).misuse = none := rfl
@[simp] theorem State.accept_grain (s : State) (op : Op) (r0 : Option Word) :
    (s.accept op r0).grain = s.grain := rfl
@[simp] theorem State.accept_draws (s : State) (op : Op) (r0 : Option Word) :
    (s.accept op r0).draws = s.draws := rfl
@[simp] theorem State.accept_work_op (s : State) (op : Op) (r0 : Option Word) : (s.accept op r0).work.op = op := rfl
@[simp] theorem State.accept_work_len (s : State) (op : Op) (r0 : Option Word) :
    (s.accept op r0).work.len = s.port.len := rfl
@[simp] theorem State.accept_work_alloc (s : State) (op : Op) (r0 : Option Word) :
    (s.accept op r0).work.alloc = s.port.allocOk := rfl
@[simp] theorem State.accept_work_r (s : State) (op : Op) (r0 : Option Word) :
    (s.accept op r0).work.r = r0.getD s.work.r := rfl
@[simp] theorem State.accept_work_i (s : State) (op : Op) (r0 : Option Word) : (s.accept op r0).work.i = 0 := rfl
@[simp] theorem State.accept_work_hi (s : State) (op : Op) (r0 : Option Word) :
    (s.accept op r0).work.hi = s.work.hi := rfl
@[simp] theorem State.accept_work_bad (s : State) (op : Op) (r0 : Option Word) :
    (s.accept op r0).work.bad = false := rfl
@[simp] theorem State.accept_work_olen (s : State) (op : Op) (r0 : Option Word) :
    (s.accept op r0).work.olen = 0 := rfl

/-! ### Delivering a response -/

@[simp] theorem State.deliver_busy (s : State) (rsp : Response) : (s.deliver rsp).busy = false := rfl
@[simp] theorem State.deliver_staged (s : State) (rsp : Response) : (s.deliver rsp).staged = [] := rfl
@[simp] theorem State.deliver_ibuf (s : State) (rsp : Response) : (s.deliver rsp).ibuf = s.ibuf := rfl
@[simp] theorem State.deliver_response (s : State) (rsp : Response) : (s.deliver rsp).response = some rsp := rfl
@[simp] theorem State.deliver_port (s : State) (rsp : Response) : (s.deliver rsp).port = s.port := rfl
@[simp] theorem State.deliver_resetPending (s : State) (rsp : Response) :
    (s.deliver rsp).resetPending = s.resetPending := rfl
@[simp] theorem State.deliver_misuse (s : State) (rsp : Response) : (s.deliver rsp).misuse = s.misuse := rfl
@[simp] theorem State.deliver_grain (s : State) (rsp : Response) : (s.deliver rsp).grain = s.grain := rfl
@[simp] theorem State.deliver_draws (s : State) (rsp : Response) : (s.deliver rsp).draws = s.draws + 1 := rfl
@[simp] theorem State.deliver_work (s : State) (rsp : Response) : (s.deliver rsp).work = Work.idle s.draws := rfl

/-! ### RESET -/

@[simp] theorem State.takeReset_busy (s : State) : (s.takeReset).busy = false := rfl
@[simp] theorem State.takeReset_staged (s : State) : (s.takeReset).staged = [] := rfl
@[simp] theorem State.takeReset_ibuf (s : State) : (s.takeReset).ibuf = s.ibuf := rfl
@[simp] theorem State.takeReset_response (s : State) : (s.takeReset).response = none := rfl
@[simp] theorem State.takeReset_port (s : State) : (s.takeReset).port = s.port := rfl
@[simp] theorem State.takeReset_resetPending (s : State) : (s.takeReset).resetPending = false := rfl
@[simp] theorem State.takeReset_misuse (s : State) : (s.takeReset).misuse = none := rfl
@[simp] theorem State.takeReset_grain (s : State) : (s.takeReset).grain = s.grain := rfl
@[simp] theorem State.takeReset_draws (s : State) : (s.takeReset).draws = s.draws + 1 := rfl
@[simp] theorem State.takeReset_work (s : State) : (s.takeReset).work = Work.reset := rfl

/-! ### The moves of the host -/

@[simp] theorem State.present_busy (s : State) (c : CmdWord) (b : List Byte) (a : Bool) :
    (s.present c b a).busy = s.busy := rfl
@[simp] theorem State.present_staged (s : State) (c : CmdWord) (b : List Byte) (a : Bool) :
    (s.present c b a).staged = s.staged := rfl
@[simp] theorem State.present_ibuf (s : State) (c : CmdWord) (b : List Byte) (a : Bool) :
    (s.present c b a).ibuf = s.ibuf := rfl
@[simp] theorem State.present_response (s : State) (c : CmdWord) (b : List Byte) (a : Bool) :
    (s.present c b a).response = s.response := rfl
@[simp] theorem State.present_port (s : State) (c : CmdWord) (b : List Byte) (a : Bool) :
    (s.present c b a).port =
      { valid := true, cmd := c, len := b.length, allocOk := a, input := Memory.placeFrom 0 b, misuse := none } := rfl
@[simp] theorem State.present_resetPending (s : State) (c : CmdWord) (b : List Byte) (a : Bool) :
    (s.present c b a).resetPending = s.resetPending := rfl
@[simp] theorem State.present_misuse (s : State) (c : CmdWord) (b : List Byte) (a : Bool) :
    (s.present c b a).misuse = s.misuse := rfl
@[simp] theorem State.present_grain (s : State) (c : CmdWord) (b : List Byte) (a : Bool) :
    (s.present c b a).grain = s.grain := rfl
@[simp] theorem State.present_draws (s : State) (c : CmdWord) (b : List Byte) (a : Bool) :
    (s.present c b a).draws = s.draws := rfl
@[simp] theorem State.present_work (s : State) (c : CmdWord) (b : List Byte) (a : Bool) :
    (s.present c b a).work = s.work := rfl
@[simp] theorem State.presentMisused_busy (s : State) (c : CmdWord) (b : List Byte) (a : Bool) (m : HostMisuse) :
    (s.presentMisused c b a m).busy = s.busy := rfl
@[simp] theorem State.presentMisused_staged (s : State) (c : CmdWord) (b : List Byte) (a : Bool) (m : HostMisuse) :
    (s.presentMisused c b a m).staged = s.staged := rfl
@[simp] theorem State.presentMisused_ibuf (s : State) (c : CmdWord) (b : List Byte) (a : Bool) (m : HostMisuse) :
    (s.presentMisused c b a m).ibuf = s.ibuf := rfl
@[simp] theorem State.presentMisused_response (s : State) (c : CmdWord) (b : List Byte) (a : Bool) (m : HostMisuse) :
    (s.presentMisused c b a m).response = s.response := rfl
@[simp] theorem State.presentMisused_port (s : State) (c : CmdWord) (b : List Byte) (a : Bool) (m : HostMisuse) :
    (s.presentMisused c b a m).port = { (s.present c b a).port with misuse := some m } := rfl
@[simp] theorem State.presentMisused_resetPending (s : State) (c : CmdWord) (b : List Byte) (a : Bool) (m : HostMisuse) :
    (s.presentMisused c b a m).resetPending = s.resetPending := rfl
@[simp] theorem State.presentMisused_misuse (s : State) (c : CmdWord) (b : List Byte) (a : Bool) (m : HostMisuse) :
    (s.presentMisused c b a m).misuse = s.misuse := rfl
@[simp] theorem State.presentMisused_grain (s : State) (c : CmdWord) (b : List Byte) (a : Bool) (m : HostMisuse) :
    (s.presentMisused c b a m).grain = s.grain := rfl
@[simp] theorem State.presentMisused_draws (s : State) (c : CmdWord) (b : List Byte) (a : Bool) (m : HostMisuse) :
    (s.presentMisused c b a m).draws = s.draws := rfl
@[simp] theorem State.presentMisused_work (s : State) (c : CmdWord) (b : List Byte) (a : Bool) (m : HostMisuse) :
    (s.presentMisused c b a m).work = s.work := rfl
@[simp] theorem State.withdraw_busy (s : State) : (s.withdraw).busy = s.busy := rfl
@[simp] theorem State.withdraw_staged (s : State) : (s.withdraw).staged = s.staged := rfl
@[simp] theorem State.withdraw_ibuf (s : State) : (s.withdraw).ibuf = s.ibuf := rfl
@[simp] theorem State.withdraw_response (s : State) : (s.withdraw).response = s.response := rfl
@[simp] theorem State.withdraw_port (s : State) : (s.withdraw).port = { s.port with valid := false } := rfl
@[simp] theorem State.withdraw_resetPending (s : State) : (s.withdraw).resetPending = s.resetPending := rfl
@[simp] theorem State.withdraw_misuse (s : State) : (s.withdraw).misuse = s.misuse := rfl
@[simp] theorem State.withdraw_grain (s : State) : (s.withdraw).grain = s.grain := rfl
@[simp] theorem State.withdraw_draws (s : State) : (s.withdraw).draws = s.draws := rfl
@[simp] theorem State.withdraw_work (s : State) : (s.withdraw).work = s.work := rfl
@[simp] theorem State.hostWriteInput_busy (s : State) (a : Nat) (v : Byte) :
    (s.hostWriteInput a v).busy = s.busy := rfl
@[simp] theorem State.hostWriteInput_staged (s : State) (a : Nat) (v : Byte) :
    (s.hostWriteInput a v).staged = s.staged := rfl
@[simp] theorem State.hostWriteInput_ibuf (s : State) (a : Nat) (v : Byte) :
    (s.hostWriteInput a v).ibuf = s.ibuf := rfl
@[simp] theorem State.hostWriteInput_response (s : State) (a : Nat) (v : Byte) :
    (s.hostWriteInput a v).response = s.response := rfl
@[simp] theorem State.hostWriteInput_port (s : State) (a : Nat) (v : Byte) :
    (s.hostWriteInput a v).port = { s.port with input := s.port.input.write a v } := rfl
@[simp] theorem State.hostWriteInput_resetPending (s : State) (a : Nat) (v : Byte) :
    (s.hostWriteInput a v).resetPending = s.resetPending := rfl
@[simp] theorem State.hostWriteInput_misuse (s : State) (a : Nat) (v : Byte) :
    (s.hostWriteInput a v).misuse = s.misuse := rfl
@[simp] theorem State.hostWriteInput_grain (s : State) (a : Nat) (v : Byte) :
    (s.hostWriteInput a v).grain = s.grain := rfl
@[simp] theorem State.hostWriteInput_draws (s : State) (a : Nat) (v : Byte) :
    (s.hostWriteInput a v).draws = s.draws := rfl
@[simp] theorem State.hostWriteInput_work (s : State) (a : Nat) (v : Byte) :
    (s.hostWriteInput a v).work = s.work := rfl
@[simp] theorem State.placeInput_busy (s : State) (b : List Byte) : (s.placeInput b).busy = s.busy := rfl
@[simp] theorem State.placeInput_staged (s : State) (b : List Byte) : (s.placeInput b).staged = s.staged := rfl
@[simp] theorem State.placeInput_ibuf (s : State) (b : List Byte) : (s.placeInput b).ibuf = s.ibuf := rfl
@[simp] theorem State.placeInput_response (s : State) (b : List Byte) :
    (s.placeInput b).response = s.response := rfl
@[simp] theorem State.placeInput_port (s : State) (b : List Byte) :
    (s.placeInput b).port = { s.port with input := Memory.placeFrom 0 b } := rfl
@[simp] theorem State.placeInput_resetPending (s : State) (b : List Byte) :
    (s.placeInput b).resetPending = s.resetPending := rfl
@[simp] theorem State.placeInput_misuse (s : State) (b : List Byte) : (s.placeInput b).misuse = s.misuse := rfl
@[simp] theorem State.placeInput_grain (s : State) (b : List Byte) : (s.placeInput b).grain = s.grain := rfl
@[simp] theorem State.placeInput_draws (s : State) (b : List Byte) : (s.placeInput b).draws = s.draws := rfl
@[simp] theorem State.placeInput_work (s : State) (b : List Byte) : (s.placeInput b).work = s.work := rfl
@[simp] theorem State.assertReset_busy (s : State) : (s.assertReset).busy = s.busy := rfl
@[simp] theorem State.assertReset_staged (s : State) : (s.assertReset).staged = s.staged := rfl
@[simp] theorem State.assertReset_ibuf (s : State) : (s.assertReset).ibuf = s.ibuf := rfl
@[simp] theorem State.assertReset_response (s : State) : (s.assertReset).response = s.response := rfl
@[simp] theorem State.assertReset_port (s : State) : (s.assertReset).port = s.port := rfl
@[simp] theorem State.assertReset_resetPending (s : State) : (s.assertReset).resetPending = true := rfl
@[simp] theorem State.assertReset_misuse (s : State) : (s.assertReset).misuse = s.misuse := rfl
@[simp] theorem State.assertReset_grain (s : State) : (s.assertReset).grain = s.grain := rfl
@[simp] theorem State.assertReset_draws (s : State) : (s.assertReset).draws = s.draws := rfl
@[simp] theorem State.assertReset_work (s : State) : (s.assertReset).work = s.work := rfl
@[simp] theorem State.hostWriteIbuf_busy (s : State) (a : Nat) (v : Byte) :
    (s.hostWriteIbuf a v).busy = s.busy := rfl
@[simp] theorem State.hostWriteIbuf_staged (s : State) (a : Nat) (v : Byte) :
    (s.hostWriteIbuf a v).staged = s.staged := rfl
@[simp] theorem State.hostWriteIbuf_ibuf (s : State) (a : Nat) (v : Byte) :
    (s.hostWriteIbuf a v).ibuf = s.ibuf.write a v := rfl
@[simp] theorem State.hostWriteIbuf_response (s : State) (a : Nat) (v : Byte) :
    (s.hostWriteIbuf a v).response = s.response := rfl
@[simp] theorem State.hostWriteIbuf_port (s : State) (a : Nat) (v : Byte) :
    (s.hostWriteIbuf a v).port = s.port := rfl
@[simp] theorem State.hostWriteIbuf_resetPending (s : State) (a : Nat) (v : Byte) :
    (s.hostWriteIbuf a v).resetPending = s.resetPending := rfl
@[simp] theorem State.hostWriteIbuf_misuse (s : State) (a : Nat) (v : Byte) :
    (s.hostWriteIbuf a v).misuse =
      if s.busy && decide (a < s.work.len) && (s.ibuf.read a != v) then some .ibufChanged else s.misuse := rfl
@[simp] theorem State.hostWriteIbuf_grain (s : State) (a : Nat) (v : Byte) :
    (s.hostWriteIbuf a v).grain = s.grain := rfl
@[simp] theorem State.hostWriteIbuf_draws (s : State) (a : Nat) (v : Byte) :
    (s.hostWriteIbuf a v).draws = s.draws := rfl
@[simp] theorem State.hostWriteIbuf_work (s : State) (a : Nat) (v : Byte) :
    (s.hostWriteIbuf a v).work = s.work := rfl
@[simp] theorem State.withGrain_busy (s : State) (g : Grain) : (s.withGrain g).busy = s.busy := rfl
@[simp] theorem State.withGrain_staged (s : State) (g : Grain) : (s.withGrain g).staged = s.staged := rfl
@[simp] theorem State.withGrain_ibuf (s : State) (g : Grain) : (s.withGrain g).ibuf = s.ibuf := rfl
@[simp] theorem State.withGrain_response (s : State) (g : Grain) : (s.withGrain g).response = s.response := rfl
@[simp] theorem State.withGrain_port (s : State) (g : Grain) : (s.withGrain g).port = s.port := rfl
@[simp] theorem State.withGrain_resetPending (s : State) (g : Grain) :
    (s.withGrain g).resetPending = s.resetPending := rfl
@[simp] theorem State.withGrain_misuse (s : State) (g : Grain) : (s.withGrain g).misuse = s.misuse := rfl
@[simp] theorem State.withGrain_grain (s : State) (g : Grain) : (s.withGrain g).grain = g := rfl
@[simp] theorem State.withGrain_draws (s : State) (g : Grain) : (s.withGrain g).draws = s.draws := rfl
@[simp] theorem State.withGrain_work (s : State) (g : Grain) : (s.withGrain g).work = s.work := rfl

end Sys2Proof.Machine
end

