-- ==== Sys2Proof/Laws/Ops.lean ====
section
/-!
SUPPORT. What each shared operation can do, said once: the whole-command frame, the pre-checks, the events of
a command in flight, and a step. Proofs cite these and do not unfold the operations.
-/
namespace Sys2Proof.Machine

/-- Every meaning is the one command frame around the instruction's own response. -/
theorem exec_eq_runCommand (i : Instr) (s : State) :
    exec i s = runCommand s (commandResponse i s.input s.port.allocOk) := by
  cases i <;> rfl

/-- If a whole command answers a next state, it waited (BUSY), or it delivered its response. -/
theorem runCommand_next {s t : State} {rsp : Response} (h : runCommand s rsp = .next t) :
    (s.busy = true ∧ t = s)
    ∨ (s.Ready ∧ t = s.takePresented.deliver rsp) := by
  unfold runCommand at h
  split at h
  · rename_i hb; exact .inl ⟨hb, by simpa using h.symm⟩
  · rename_i hb
    split at h
    · cases h
    · rename_i hm; exact .inr ⟨⟨by simpa using hb, hm⟩, by simpa using h.symm⟩

/-- A whole command never faults. -/
theorem runCommand_ne_fault (s : State) (rsp : Response) (f : Fault) : runCommand s rsp ≠ .fault f := by
  unfold runCommand
  split
  · simp
  · split <;> simp

@[simp] theorem opOf_decrypt (r0 : Word) : opOf (.decrypt r0) = .decrypt := rfl
@[simp] theorem opOf_encrypt (r0 : Word) : opOf (.encrypt r0) = .encrypt := rfl
@[simp] theorem opOf_hexenc (r0 : Word) : opOf (.hexenc r0) = .hexenc := rfl
@[simp] theorem opOf_hexdec (r0 : Word) : opOf (.hexdec r0) = .hexdec := rfl

@[simp] theorem requiredLength_decrypt (n : Nat) : requiredLength .decrypt n = some n := rfl
@[simp] theorem requiredLength_encrypt (n : Nat) : requiredLength .encrypt n = some n := rfl
@[simp] theorem requiredLength_hexenc (n : Nat) : requiredLength .hexenc n = some (2 * n) := rfl

theorem requiredLength_hexdec (n : Nat) :
    requiredLength .hexdec n = if n % 2 = 0 then some (n / 2) else none := rfl

@[simp] theorem allocDenied_granted (l : Nat) : allocDenied l true = false := by simp [allocDenied]

@[simp] theorem allocDenied_empty (alloc : Bool) : allocDenied 0 alloc = false := by simp [allocDenied]

theorem withBuffer_eq (l : Nat) (alloc : Bool) (rsp : Response) :
    withBuffer l alloc rsp = if 0 < l ∧ alloc = false then .err .outOfMemory else rsp := by
  simp [withBuffer, allocDenied]

/-- The beat of a DECRYPT command in flight, as one update of the state. -/
theorem beat_decrypt {s : State} (h : s.work.op = .decrypt) :
    beat s = { s with
      work := { s.work with r := nextR s.work.r s.loadCell, i := s.work.i + 1, olen := s.work.olen + 1 }
      staged := s.staged.write s.work.olen (combine s.work.r s.loadCell) } := by
  have hb : beat s = (decryptBeat s).advance := by simp [beat, h]
  rw [hb]
  simp only [decryptBeat, State.advance, State.setR, State.stage]

/-- The beat of an ENCRYPT command in flight, as one update of the state. -/
theorem beat_encrypt {s : State} (h : s.work.op = .encrypt) :
    beat s = { s with
      work := { s.work with r := nextR s.work.r (combine s.work.r s.loadCell), i := s.work.i + 1,
                            olen := s.work.olen + 1 }
      staged := s.staged.write s.work.olen (combine s.work.r s.loadCell) } := by
  have hb : beat s = (encryptBeat s).advance := by simp [beat, h]
  rw [hb]
  simp only [encryptBeat, State.advance, State.setR, State.stage]

/-- The beat of a HEXENC command in flight, as one update of the state. -/
theorem beat_hexenc {s : State} (h : s.work.op = .hexenc) :
    beat s = { s with
      work := { s.work with i := s.work.i + 1, olen := s.work.olen + 2 }
      staged := (s.staged.write s.work.olen (encLut (highNibble s.loadCell))).write (s.work.olen + 1)
                  (encLut (lowNibble s.loadCell)) } := by
  have hb : beat s = (hexencBeat s).advance := by simp [beat, h]
  rw [hb]
  simp only [hexencBeat, State.advance, State.stage, Nat.add_assoc, Nat.reduceAdd]

/-- The beat of a HEXDEC command in flight at the first character of a pair, as one update of the state. -/
theorem beat_hexdec_even {s : State} (h : s.work.op = .hexdec) (hi : s.work.i % 2 = 0) :
    beat s = { s with
      work := { s.work with bad := badAfter s.work.bad (decLut s.loadCell), hi := s.beatDigit,
                            i := s.work.i + 1 } } := by
  have hb : beat s = (hexdecBeat s).advance := by simp [beat, h]
  rw [hb]
  simp [hexdecBeat, State.advance, State.setHi, State.setBad, Work.secondOfPair, hi]

/-- The beat of a HEXDEC command in flight at the second character of a pair, as one update of the state. -/
theorem beat_hexdec_odd {s : State} (h : s.work.op = .hexdec) (hi : s.work.i % 2 = 1) :
    beat s = { s with
      work := { s.work with bad := badAfter s.work.bad (decLut s.loadCell), i := s.work.i + 1,
                            olen := s.work.olen + 1 }
      staged := s.staged.write s.work.olen (joinNibbles s.work.hi s.beatDigit) } := by
  have hb : beat s = (hexdecBeat s).advance := by simp [beat, h]
  rw [hb]
  simp [hexdecBeat, State.advance, State.stage, State.setBad, Work.secondOfPair, hi]

/-- A beat changes the working registers and the staged output and nothing else, and of the registers not OP,
LEN or ALLOC_OK. -/
theorem beat_frame (s : State) :
    beat s = { s with work := (beat s).work, staged := (beat s).staged }
      ∧ (beat s).work.op = s.work.op ∧ (beat s).work.len = s.work.len
      ∧ (beat s).work.alloc = s.work.alloc ∧ (beat s).work.i = s.work.i + 1 := by
  cases h : s.work.op with
  | decrypt => rw [beat_decrypt h]; exact ⟨rfl, h, rfl, rfl, rfl⟩
  | encrypt => rw [beat_encrypt h]; exact ⟨rfl, h, rfl, rfl, rfl⟩
  | hexenc => rw [beat_hexenc h]; exact ⟨rfl, h, rfl, rfl, rfl⟩
  | hexdec =>
    rcases Nat.mod_two_eq_zero_or_one s.work.i with hi | hi
    · rw [beat_hexdec_even h hi]; exact ⟨rfl, h, rfl, rfl, rfl⟩
    · rw [beat_hexdec_odd h hi]; exact ⟨rfl, h, rfl, rfl, rfl⟩

/-- If a command in flight answers a next state, it responded complete, or took one beat. -/
theorem busyEvent_next {s t : State} (h : busyEvent s = .next t) :
    s.misuse = none ∧
      ((s.work.complete = true ∧ t = respond s)
       ∨ (s.work.complete = false ∧ s.work.i < s.work.len ∧ t = beat s)) := by
  unfold busyEvent at h
  split at h
  · cases h
  · rename_i hm
    refine ⟨hm, ?_⟩
    split at h
    · rename_i hc; exact .inl ⟨hc, by simpa using h.symm⟩
    · rename_i hc
      split at h
      · rename_i hi; exact .inr ⟨by simpa using hc, hi, by simpa using h.symm⟩
      · cases h

/-- If a step answers a next state, it took RESET, or an event of the command in flight, or started the
presented command (whole, or its ACCEPT), or idled. -/
theorem step_next {s t : State} (h : step s = .next t) :
    (s.resetPending = true ∧ t = s.takeReset)
    ∨ (s.resetPending = false ∧ s.busy = true ∧ busyEvent s = .next t)
    ∨ (s.resetPending = false ∧ s.Ready ∧ s.port.valid = true ∧
        ((s.grain = .command ∧ exec s.presentedInstr s = .next t)
         ∨ (s.grain = .event ∧ t = s.accept (opOf s.presentedInstr) (r0Of s.presentedInstr))))
    ∨ (s.resetPending = false ∧ s.busy = false ∧ s.port.valid = false ∧ t = s) := by
  unfold step stepEvent at h
  split at h
  · rename_i hr; exact .inl ⟨hr, by simpa using h.symm⟩
  rename_i hr
  have hr : s.resetPending = false := by simpa using hr
  split at h
  · rename_i hb; exact .inr (.inl ⟨hr, hb, h⟩)
  rename_i hb
  have hb : s.busy = false := by simpa using hb
  split at h
  · rename_i hv
    refine .inr (.inr (.inl ?_))
    unfold startEvent at h
    split at h
    · rename_i hg
      have h' := h
      rw [exec_eq_runCommand] at h'
      rcases runCommand_next h' with ⟨hb', _⟩ | ⟨hready, _⟩
      · rw [hb] at hb'; cases hb'
      · exact ⟨hr, hready, hv, .inl ⟨hg, h⟩⟩
    · rename_i hg
      unfold acceptEvent at h
      split at h
      · cases h
      · rename_i hm
        exact ⟨hr, ⟨hb, hm⟩, hv, .inr ⟨hg, by simpa using h.symm⟩⟩
  · rename_i hv
    exact .inr (.inr (.inr ⟨hr, hb, by simpa using hv, by simpa using h.symm⟩))

@[simp] theorem runSteps_zero (s : State) : runSteps 0 s = .next s := rfl

/-- A run begins with a step, and stops where that step stops. -/
theorem runSteps_succ_next {s t : State} (k : Nat) (h : step s = .next t) : runSteps (k + 1) s = runSteps k t := by
  have h' : Sys2Proof.core.step s = .next t := h
  simp only [runSteps, Host.Core.run, h']
  rfl

/-- A run that answers a next state answered one at its first step. -/
theorem runSteps_succ_inv {s t : State} (k : Nat) (h : runSteps (k + 1) s = .next t) :
    ∃ u, step s = .next u ∧ runSteps k u = .next t := by
  cases hs : step s with
  | next u => exact ⟨u, rfl, by rwa [runSteps_succ_next k hs] at h⟩
  | fault f =>
    have h' : Sys2Proof.core.step s = .fault f := hs
    simp only [runSteps, Host.Core.run, h'] at h
    cases h
  | refused r =>
    have h' : Sys2Proof.core.step s = .refused r := hs
    simp only [runSteps, Host.Core.run, h'] at h
    cases h

end Sys2Proof.Machine
end

