-- ==== Sys2Proof/Laws/PerInstr.lean ====
section
/-!
SUPPORT. Statements about every instruction as syntax, one lemma per constructor.
-/
namespace Sys2Proof.Laws.EncodeFields

/-- The command word of an instruction holds its operation code in bits 17:16 and its R0 field in bits 15:0
(30 R50, R51). -/
def Statement (i : Instr) : Prop :=
  cmdOp (encodeCmd i) = i.opCode ∧ cmdR0 (encodeCmd i) = i.r0Field

/-- The two fields of a word joined from an operation code and a value. -/
theorem fields_of_append (c : BitVec 2) (r : Word) :
    cmdOp (c ++ r : CmdWord) = c ∧ cmdR0 (c ++ r : CmdWord) = r := by
  constructor
  · apply BitVec.eq_of_getElem_eq
    intro k hk
    simp only [cmdOp, BitVec.getElem_extractLsb', BitVec.getLsbD_append]
    simp [show ¬ 16 + k < 16 by omega, hk]
  · apply BitVec.eq_of_getElem_eq
    intro k hk
    simp only [cmdR0, BitVec.getElem_extractLsb', BitVec.getLsbD_append]
    simp [hk]

theorem decrypt (r0 : Word) : Statement (.decrypt r0) := fields_of_append 0#2 r0

theorem encrypt (r0 : Word) : Statement (.encrypt r0) := fields_of_append 1#2 r0

theorem hexenc (r0 : Word) : Statement (.hexenc r0) := fields_of_append 2#2 r0

theorem hexdec (r0 : Word) : Statement (.hexdec r0) := fields_of_append 3#2 r0

end Sys2Proof.Laws.EncodeFields
end

