-- ==== Sys2Proof/Machine/Text.lean ====
section
/-!
DEFINITION. The textual form of a command and of a response, as the spec writes them (30 R62). It is a way
of writing, and no step of the machine reads it.
-/
namespace Sys2Proof.Machine

/-- The mnemonic of an operation (30 R51). -/
def Op.mnemonic : Op → List Char
  | .decrypt => ['D', 'E', 'C', 'R', 'Y', 'P', 'T']
  | .encrypt => ['E', 'N', 'C', 'R', 'Y', 'P', 'T']
  | .hexenc => ['H', 'E', 'X', 'E', 'N', 'C']
  | .hexdec => ['H', 'E', 'X', 'D', 'E', 'C']

/-- A number in decimal (log entry 19). -/
def textNumber (n : Nat) : List Char := Nat.toDigits 10 n

/-- A cell as the character whose code it holds. -/
def textChar (c : Byte) : Char := Char.ofNat c.toNat

/-- A byte as two hex digits. -/
def textByte (b : Byte) : List Char :=
  [textChar (encLut (highNibble b)), textChar (encLut (lowNibble b))]

/-- Bytes as two hex digits each, a space between two. -/
def textBytes : List Byte → List Char
  | [] => []
  | [b] => textByte b
  | b :: c :: bs => textByte b ++ ' ' :: textBytes (c :: bs)

/-- A byte buffer: `[48 65 6C]`. -/
def textBuffer (b : List Byte) : List Char := '[' :: textBytes b ++ [']']

/-- A text in double quotes. -/
def textQuoted (t : List Byte) : List Char := '"' :: t.map textChar ++ ['"']

/-- The input of an operation: text for HEXDEC, bytes otherwise (20 R31). -/
def textInput : Op → List Byte → List Char
  | .hexdec, t => textQuoted t
  | _, b => textBuffer b

/-- The output of an operation: text for HEXENC, bytes otherwise (20 R31). -/
def textOutput : Op → List Byte → List Char
  | .hexenc, t => textQuoted t
  | _, b => textBuffer b

/-- A command on one line: `MNEMONIC [r0=<value>] in=<buffer> [alloc=<0|1>]`. `r0=` is given for the cipher
commands, `alloc=` where it is not 1 (30 R62). -/
def textCommand (op : Op) (r0 : Option Word) (input : List Byte) (alloc : Bool) : List Char :=
  op.mnemonic
    ++ (match r0 with
        | some r => [' ', 'r', '0', '='] ++ textNumber r.toNat
        | none => [])
    ++ [' ', 'i', 'n', '='] ++ textInput op input
    ++ (if alloc then [] else [' ', 'a', 'l', 'l', 'o', 'c', '=', '0'])

/-- The name of a failure (30 R62). -/
def Failure.text : Failure → List Char
  | .outOfMemory => ['O', 'u', 't', 'O', 'f', 'M', 'e', 'm', 'o', 'r', 'y']
  | .oddLength => ['O', 'd', 'd', 'L', 'e', 'n', 'g', 't', 'h']
  | .invalidDigit => ['I', 'n', 'v', 'a', 'l', 'i', 'd', 'D', 'i', 'g', 'i', 't']

/-- A response: `OK out=<buffer> [rfinal=<value>]` or `ERR <name>` (30 R62). -/
def textResponse (op : Op) : Response → List Char
  | .ok out rfinal =>
    ['O', 'K', ' ', 'o', 'u', 't', '='] ++ textOutput op out
      ++ (match rfinal with
          | some r => [' ', 'r', 'f', 'i', 'n', 'a', 'l', '='] ++ textNumber r.toNat
          | none => [])
  | .err f => ['E', 'R', 'R', ' '] ++ f.text

end Sys2Proof.Machine
end

