-- ==== Sys2Proof/Tests/Slice0.lean ====
section
/-!
SUPPORT. Small tests. Expected values are the spec's own: its worked encodings (30 section 5), its source
examples S-1 to S-13 and its derived vectors (95), named at each test. The witnesses at the end show, for each
statement that has hypotheses, a state and operands that meet them together.
-/
namespace Sys2Proof.Tests

open Sys2Proof.Machine

/-! ### Helpers -/

/-- An idle instance with a command over a buffer presented. -/
def demo (cmd : CmdWord) (b : List Byte) (alloc : Bool) : State :=
  State.reset.present cmd b alloc

/-- The same, one event a step. -/
def demoEvent (cmd : CmdWord) (b : List Byte) (alloc : Bool) : State := (demo cmd b alloc).withGrain .event

/-- The state after `k` steps. -/
def after (k : Nat) (s : State) : State :=
  match runSteps k s with
  | .next t => t
  | .fault _ => s
  | .refused _ => s

/-- A HEXENC command in flight, with a second one presented and its buffer changed since. -/
def waiting : State :=
  ((after 1 (demoEvent 0x20000#18 [0x1A#8] true)).present 0x20000#18 [0x00#8] true).hostWriteInput 0 0x2B#8

/-- The response an outcome delivers. -/
def answer (o : Host.Outcome State Fault Refusal) : Option Response :=
  match o with
  | .next t => t.response
  | .fault _ => none
  | .refused _ => none

/-! ### Well-formedness -/

/-- 30 R53: LEN has LEN_W bits, 2^LEN_W - 1 fits and 2^LEN_W does not. -/
theorem test_len_bound : lenFits 4 15 = true ∧ lenFits 4 16 = false := by decide

/-- 30 R50: CMD has 18 bits. -/
theorem test_cmd_bound : cmdFits 0x3FFFF = true ∧ cmdFits 0x40000 = false := by decide

/-- 30 R59: no instruction is ill-formed. -/
theorem test_every_instr_wf : ∀ i : Instr, i.wf = true := by intro i; cases i <;> rfl

/-! ### Decoding, words written out from 30 R50 and R51 -/

theorem test_decode_decrypt :
    decodeTableWord 24 0b00_1101100101110001 = some (.decrypt 55665#16) := by decide

theorem test_decode_encrypt :
    decodeTableWord 24 0b01_1101100101110001 = some (.encrypt 55665#16) := by decide

theorem test_decode_hexenc :
    decodeTableWord 24 0b10_0000000000000000 = some (.hexenc 0#16) := by decide

theorem test_decode_hexdec :
    decodeTableWord 24 0b11_1111111111111111 = some (.hexdec 65535#16) := by decide

theorem test_encode_words :
    encode (.encrypt 55665#16) = [0x1D971#18] ∧ encode (.decrypt 65535#16) = [0x0FFFF#18] := by decide

/-- 30 R63: `DECRYPT r0=EEXEC_SEED` is an ordinary DECRYPT with CMD = 0x0D971. -/
theorem test_encode_seed : encodeCmd (.decrypt Config.eexecSeed) = 0x0D971#18 := by decide

/-- A number wider than CMD is refused by name (log entry 11). -/
theorem test_decode_too_wide :
    decodeWord 0x40000 = .error (.widerThanCmd 0x40000) ∧ decodeTableWord 24 0x40000 = none := ⟨rfl, rfl⟩

/-- A placed word runs as the first instruction after reset: an empty ENCRYPT returns R0 (95 S-4). -/
theorem test_fetch_word_runs :
    answer (step (State.reset.withFetchWord 24 0x1D971)) = some (.ok [] (some 55665#16)) := by decide

/-! ### Commands, the vectors of 95 -/

/-- C-12: the sum wraps to zero. -/
theorem test_decrypt_wraps :
    answer (exec (.decrypt 0xFF01#16) (demo 0x0FF01#18 [0xFF#8] true))
      = some (.ok [0x00#8] (some 22719#16)) := by decide

/-- C-3, first chunk. -/
theorem test_decrypt_two_bytes :
    answer (exec (.decrypt 55665#16) (demo 0x0D971#18 [0x91#8, 0xA2#8] true))
      = some (.ok [0x48#8, 0x65#8] (some 5086#16)) := by decide

/-- C-5: the feedback is the output byte. -/
theorem test_encrypt_feedback :
    answer (exec (.encrypt 55665#16) (demo 0x1D971#18 [0#8, 0#8, 0#8, 0#8] true))
      = some (.ok [0xD9#8, 0xD6#8, 0x6F#8, 0x63#8] (some 24410#16)) := by decide

/-- C-18: a denied buffer. -/
theorem test_encrypt_out_of_memory :
    answer (exec (.encrypt 55665#16) (demo 0x1D971#18 [0x48#8] false)) = some (.err .outOfMemory) := by decide

/-- S-1. -/
theorem test_hexenc_source :
    answer (exec (.hexenc 0#16) (demo 0x20000#18 [0x00#8, 0xFF#8, 0x1A#8] true))
      = some (.ok [0x30#8, 0x30#8, 0x46#8, 0x46#8, 0x31#8, 0x41#8] none) := by decide

/-- H-E14: the R0 field is ignored. -/
theorem test_hexenc_ignores_r0 :
    answer (step (demo 0x2D971#18 [0x1A#8] true)) = some (.ok [0x31#8, 0x41#8] none) := by decide

/-- H-D5: the two characters of a pair fold independently. -/
theorem test_hexdec_mixed_case :
    answer (exec (.hexdec 0#16) (demo 0x30000#18 [0x61#8, 0x46#8] true)) = some (.ok [0xAF#8] none) := by decide

/-- H-D9, H-D33, H-D34: a bad second character, and the order of the failures. -/
theorem test_hexdec_failures :
    answer (exec (.hexdec 0#16) (demo 0x30000#18 [0x30#8, 0x47#8] true)) = some (.err .invalidDigit)
    ∧ answer (exec (.hexdec 0#16) (demo 0x30000#18 [0x47#8, 0x30#8] false)) = some (.err .outOfMemory)
    ∧ answer (exec (.hexdec 0#16) (demo 0x30000#18 [0x47#8] false)) = some (.err .oddLength) := by decide

/-- RSP of C-1, and of a failure whose low bits are any value (95 section 5). -/
theorem test_rsp_words :
    (Response.ok [] (some 39238#16)).rsp 0#16 = 0x09946#18
    ∧ (Response.err .invalidDigit).rsp 0xABCD#16 = 0x3ABCD#18 := by decide

/-! ### Events, the traces of 95 section 4 and P5 -/

/-- `HEXDEC in="1a"`: the state after the second BEAT. -/
theorem test_hexdec_trace :
    (after 3 (demoEvent 0x30000#18 [0x31#8, 0x61#8] true)).work.i = 2
    ∧ (after 3 (demoEvent 0x30000#18 [0x31#8, 0x61#8] true)).work.hi = 1#4
    ∧ (after 3 (demoEvent 0x30000#18 [0x31#8, 0x61#8] true)).staged = [(0, 0x1A#8)]
    ∧ (after 4 (demoEvent 0x30000#18 [0x31#8, 0x61#8] true)).response = some (.ok [0x1A#8] none) := by decide

/-- `HEXDEC in="G01A"`: all four beats are taken although BAD is set at the first. -/
theorem test_hexdec_bad_trace :
    (after 2 (demoEvent 0x30000#18 [0x47#8, 0x30#8, 0x31#8, 0x41#8] true)).work.bad = true
    ∧ (after 5 (demoEvent 0x30000#18 [0x47#8, 0x30#8, 0x31#8, 0x41#8] true)).work.olen = 2
    ∧ (after 6 (demoEvent 0x30000#18 [0x47#8, 0x30#8, 0x31#8, 0x41#8] true)).response
        = some (.err .invalidDigit) := by decide

/-- P5: two beats of a DECRYPT, then RESET: idle, no response, IBUF as it was. -/
theorem test_reset_discards :
    (after 3 (demoEvent 0x0D971#18 [0x91#8, 0xA2#8, 0x7F#8] true)).work.r = 0x13DE#16
    ∧ (after 1 (after 3 (demoEvent 0x0D971#18 [0x91#8, 0xA2#8, 0x7F#8] true)).assertReset).busy = false
    ∧ (after 1 (after 3 (demoEvent 0x0D971#18 [0x91#8, 0xA2#8, 0x7F#8] true)).assertReset).response = none
    ∧ (after 1 (after 3 (demoEvent 0x0D971#18 [0x91#8, 0xA2#8, 0x7F#8] true)).assertReset).ibuf
        = [(0, 0x91#8), (1, 0xA2#8), (2, 0x7F#8)] := by decide

/-- 70 R182, row "command while busy": a second command is presented while the first is in flight and the host then
changes its buffer. The first answers for its own cell (42 R110), the second for the cell as it was left. -/
theorem test_waiting_buffer :
    answer (step (after 1 waiting)) = some (.ok [0x31#8, 0x41#8] none)
    ∧ answer (step (after 4 waiting)) = some (.ok [0x32#8, 0x42#8] none) := by decide

/-- The line syntax of 30 R62: `ENCRYPT r0=7 in=[48 65] alloc=0` and `OK out="1A"`. -/
theorem test_text :
    textCommand .encrypt (some 7#16) [0x48#8, 0x65#8] false
      = ['E', 'N', 'C', 'R', 'Y', 'P', 'T', ' ', 'r', '0', '=', '7', ' ', 'i', 'n', '=', '[', '4', '8', ' ',
         '6', '5', ']', ' ', 'a', 'l', 'l', 'o', 'c', '=', '0']
    ∧ textResponse .hexenc (.ok [0x31#8, 0x41#8] none)
      = ['O', 'K', ' ', 'o', 'u', 't', '=', '"', '1', 'A', '"'] := by decide

/-! ### Witnesses: states and operands that meet the hypotheses of the statements -/

/-- TableWordsDecode, both clauses where they meet. -/
theorem test_witness_table_words :
    decodeTableWord 24 0x3FFFF = some (.hexdec 0xFFFF#16) ∧ decodeTableWord 24 0x40000 = none := ⟨by decide, rfl⟩

/-- StatusCodes: a response of each conditional clause. -/
theorem test_witness_status_codes :
    (commandResponse (.hexdec 0#16) [0x30#8] true).status.getLsbD 1 = true
    ∧ (commandResponse (.hexdec 0#16) [0x30#8, 0x47#8] true).status.getLsbD 0 = true
    ∧ (commandResponse (.hexenc 0#16) [0x30#8] false).status = 1#2 := by decide

/-- ResponseWordFields: a response with an Rfinal and one without. -/
theorem test_witness_response_word :
    (commandResponse (.decrypt 5#16) [] true).rfinal = some 5#16
    ∧ (commandResponse (.hexenc 5#16) [] true).rfinal = none := by decide

/-- StepRunsPresentedCommand, and the first clauses of the command statements. -/
theorem test_witness_step_runs :
    (demo 0x1D971#18 [0x48#8] true).resetPending = false ∧ (demo 0x1D971#18 [0x48#8] true).Ready
    ∧ (demo 0x1D971#18 [0x48#8] true).port.valid = true ∧ (demo 0x1D971#18 [0x48#8] true).grain = .command := by
  decide

/-- FetchWordRunsNext: the widest word. -/
theorem test_witness_fetch_word : (0x3FFFF : Nat) < 2 ^ 18 := by decide

/-- AcceptLatchesCommand and EventsRefineCommand, for a cipher and a hex command. -/
theorem test_witness_accept :
    (demoEvent 0x1D971#18 [0x48#8] true).resetPending = false ∧ (demoEvent 0x1D971#18 [0x48#8] true).Ready
    ∧ (demoEvent 0x1D971#18 [0x48#8] true).port.valid = true
    ∧ (demoEvent 0x1D971#18 [0x48#8] true).grain = .event
    ∧ (demoEvent 0x30000#18 [0x48#8] true).Ready ∧ (demoEvent 0x30000#18 [0x48#8] true).port.valid = true := by
  decide

/-- DecryptBeatEffect and BeatReadsOneCell. -/
theorem test_witness_decrypt_beat :
    (after 1 (demoEvent 0x0D971#18 [0x91#8] true)).BeatEnabled
    ∧ (after 1 (demoEvent 0x0D971#18 [0x91#8] true)).staged.wf = true
    ∧ (after 1 (demoEvent 0x0D971#18 [0x91#8] true)).work.op = .decrypt := by decide

/-- EncryptBeatEffect. -/
theorem test_witness_encrypt_beat :
    (after 2 (demoEvent 0x1D971#18 [0x91#8, 0x00#8] true)).BeatEnabled
    ∧ (after 2 (demoEvent 0x1D971#18 [0x91#8, 0x00#8] true)).staged.wf = true
    ∧ (after 2 (demoEvent 0x1D971#18 [0x91#8, 0x00#8] true)).work.op = .encrypt := by decide

/-- HexencBeatEffect and HexCommandsIgnoreKeyRegister. -/
theorem test_witness_hexenc_beat :
    (after 1 (demoEvent 0x20000#18 [0x91#8] true)).BeatEnabled
    ∧ (after 1 (demoEvent 0x20000#18 [0x91#8] true)).staged.wf = true
    ∧ (after 1 (demoEvent 0x20000#18 [0x91#8] true)).work.op = .hexenc := by decide

/-- HexdecBeatEffect at an even and at an odd position, and with a character that is no digit. -/
theorem test_witness_hexdec_beat :
    (after 1 (demoEvent 0x30000#18 [0x30#8, 0x47#8] true)).BeatEnabled
    ∧ (after 1 (demoEvent 0x30000#18 [0x30#8, 0x47#8] true)).work.i % 2 = 0
    ∧ (after 2 (demoEvent 0x30000#18 [0x30#8, 0x47#8] true)).BeatEnabled
    ∧ (after 2 (demoEvent 0x30000#18 [0x30#8, 0x47#8] true)).work.i % 2 = 1
    ∧ (after 2 (demoEvent 0x30000#18 [0x30#8, 0x47#8] true)).staged.wf = true
    ∧ (after 2 (demoEvent 0x30000#18 [0x30#8, 0x47#8] true)).work.op = .hexdec
    ∧ decLut 0x30#8 = some 0#4 ∧ decLut 0x47#8 = none := by decide

/-- RespondFormsResponse: each branch of the rule. -/
theorem test_witness_respond :
    (after 1 (demoEvent 0x30000#18 [0x30#8] false)).InFlight
    ∧ (after 1 (demoEvent 0x30000#18 [0x30#8] false)).work.complete = true
    ∧ (after 1 (demoEvent 0x20000#18 [0x30#8] false)).InFlight
    ∧ (after 1 (demoEvent 0x20000#18 [0x30#8] false)).work.complete = true
    ∧ (after 3 (demoEvent 0x30000#18 [0x47#8, 0x30#8] true)).InFlight
    ∧ (after 3 (demoEvent 0x30000#18 [0x47#8, 0x30#8] true)).work.complete = true
    ∧ (after 3 (demoEvent 0x30000#18 [0x47#8, 0x30#8] true)).work.bad = true
    ∧ (after 2 (demoEvent 0x0D971#18 [0x30#8] true)).InFlight
    ∧ (after 2 (demoEvent 0x0D971#18 [0x30#8] true)).work.complete = true := by decide

/-- ResetDiscardsCommand and the second clause of NextCommandAsIfFirst: RESET asserted in flight. -/
theorem test_witness_reset :
    (after 1 (demoEvent 0x0D971#18 [0x30#8] true)).assertReset.resetPending = true
    ∧ ∃ t, step (after 1 (demoEvent 0x0D971#18 [0x30#8] true)).assertReset = .next t :=
  ⟨by decide, _, rfl⟩

/-- IdleInstanceStays: the reset state. -/
theorem test_witness_idle :
    State.reset.resetPending = false ∧ State.reset.busy = false ∧ State.reset.port.valid = false := by decide

/-- BusyHoldsPresentedCommand, with a second command presented while the first is in flight. -/
theorem test_witness_busy :
    ((after 1 (demoEvent 0x0D971#18 [0x30#8] true)).present 0x20000#18 [0x2B#8] true).busy = true
    ∧ ((after 1 (demoEvent 0x0D971#18 [0x30#8] true)).present 0x20000#18 [0x2B#8] true).resetPending = false
    ∧ ∃ t, step ((after 1 (demoEvent 0x0D971#18 [0x30#8] true)).present 0x20000#18 [0x2B#8] true) = .next t
        ∧ t.busy = true :=
  ⟨by decide, by decide, _, rfl, by decide⟩

/-- DecryptResult, EncryptResult, HexencResult, EveryCommandAnswered, and EmptyInputSucceeds: ready and granted,
with a buffer, and empty with ALLOC_OK = 0. -/
theorem test_witness_results :
    (demo 0x0D971#18 [0x91#8, 0xA2#8] true).Ready ∧ (demo 0x0D971#18 [0x91#8, 0xA2#8] true).Granted
    ∧ (demo 0x0D971#18 [] false).Ready ∧ (demo 0x0D971#18 [] false).Granted
    ∧ (demo 0x0D971#18 [] false).port.len = 0 := by decide

/-- HexdecResult: an even text of digits. -/
theorem test_witness_hexdec_result :
    (demo 0x30000#18 [0x61#8, 0x46#8] true).Ready ∧ (demo 0x30000#18 [0x61#8, 0x46#8] true).Granted
    ∧ (demo 0x30000#18 [0x61#8, 0x46#8] true).port.len % 2 = 0
    ∧ ∀ k, k < (demo 0x30000#18 [0x61#8, 0x46#8] true).port.len →
        (decLut ((demo 0x30000#18 [0x61#8, 0x46#8] true).port.input.read k)).isSome = true := by decide

/-- OddLengthExactly: both sides. -/
theorem test_witness_odd_length :
    Completes (exec (.hexdec 0#16) (demo 0x30000#18 [0x30#8] true)) (demo 0x30000#18 [0x30#8] true)
      (.err .oddLength)
    ∧ opOf (.hexdec 0#16) = .hexdec ∧ (demo 0x30000#18 [0x30#8] true).port.len % 2 = 1 :=
  ⟨⟨_, rfl, rfl, rfl, rfl, rfl, rfl, fun _ => rfl, rfl, rfl⟩, rfl, rfl⟩

/-- OutOfMemoryExactly: both sides of the equivalence, and its second clause. -/
theorem test_witness_out_of_memory :
    Completes (exec (.encrypt 1#16) (demo 0x10001#18 [0x30#8] false)) (demo 0x10001#18 [0x30#8] false)
      (.err .outOfMemory)
    ∧ (demo 0x10001#18 [0x30#8] false).port.allocOk = false
    ∧ requiredLength (opOf (.encrypt 1#16)) (demo 0x10001#18 [0x30#8] false).port.len = some 1
    ∧ opOf (.encrypt 1#16) ≠ .hexdec :=
  ⟨⟨_, rfl, rfl, rfl, rfl, rfl, rfl, fun _ => rfl, rfl, rfl⟩, rfl, rfl, by decide⟩

/-- InvalidDigitExactly: both sides, the bad character at an odd index. -/
theorem test_witness_invalid_digit :
    Completes (exec (.hexdec 0#16) (demo 0x30000#18 [0x30#8, 0x47#8] true))
      (demo 0x30000#18 [0x30#8, 0x47#8] true) (.err .invalidDigit)
    ∧ (demo 0x30000#18 [0x30#8, 0x47#8] true).port.len % 2 = 0
    ∧ (demo 0x30000#18 [0x30#8, 0x47#8] true).Granted
    ∧ decLut ((demo 0x30000#18 [0x30#8, 0x47#8] true).port.input.read 1) = none :=
  ⟨⟨_, rfl, rfl, rfl, rfl, rfl, rfl, fun _ => rfl, rfl, rfl⟩, rfl, by decide, by decide⟩

/-- OutputLengthHandedOver and HexencAlwaysUppercase: a success, and a failure. -/
theorem test_witness_output_length :
    Completes (exec (.hexenc 0#16) (demo 0x20000#18 [0x1A#8] true)) (demo 0x20000#18 [0x1A#8] true)
      (.ok [0x31#8, 0x41#8] none)
    ∧ (Response.ok [0x31#8, 0x41#8] none).status = 0#2
    ∧ Completes (exec (.hexenc 0#16) (demo 0x20000#18 [0x1A#8] false)) (demo 0x20000#18 [0x1A#8] false)
        (.err .outOfMemory)
    ∧ (Response.err .outOfMemory).status ≠ 0#2 ∧ 0x41#8 ∈ (Response.ok [0x31#8, 0x41#8] none).out :=
  ⟨⟨_, rfl, rfl, rfl, rfl, rfl, rfl, fun _ => rfl, rfl, rfl⟩, rfl,
   ⟨_, rfl, rfl, rfl, rfl, rfl, rfl, fun _ => rfl, rfl, rfl⟩, by decide, by decide⟩

/-- MisusedBuffersRefused: at the port, and in flight. -/
theorem test_witness_misuse :
    ((demo 0x20000#18 [0x1A#8] true).presentMisused 0x20000#18 [0x1A#8] true .buffersOverlap).busy = false
    ∧ ((demo 0x20000#18 [0x1A#8] true).presentMisused 0x20000#18 [0x1A#8] true .buffersOverlap).resetPending = false
    ∧ ((demo 0x20000#18 [0x1A#8] true).presentMisused 0x20000#18 [0x1A#8] true .buffersOverlap).port.valid = true
    ∧ ((demo 0x20000#18 [0x1A#8] true).presentMisused 0x20000#18 [0x1A#8] true .buffersOverlap).port.misuse
        = some .buffersOverlap
    ∧ (after 1 (demoEvent 0x20000#18 [0x1A#8] true)).hostTouchObuf.busy = true
    ∧ (after 1 (demoEvent 0x20000#18 [0x1A#8] true)).hostTouchObuf.resetPending = false
    ∧ (after 1 (demoEvent 0x20000#18 [0x1A#8] true)).hostTouchObuf.misuse = some .obufTouched := by decide

/-- HostMovesInFlightRefused: a changed cell below LEN, the cell at LEN, and a cell written as it is. -/
theorem test_witness_host_moves :
    (after 1 (demoEvent 0x20000#18 [0x1A#8] true)).resetPending = false
    ∧ (after 1 (demoEvent 0x20000#18 [0x1A#8] true)).busy = true
    ∧ 0 < (after 1 (demoEvent 0x20000#18 [0x1A#8] true)).work.len
    ∧ (after 1 (demoEvent 0x20000#18 [0x1A#8] true)).ibuf.read 0 ≠ 0x1B#8
    ∧ (after 1 (demoEvent 0x20000#18 [0x1A#8] true)).work.len ≤ 1
    ∧ (after 1 (demoEvent 0x20000#18 [0x1A#8] true)).ibuf.read 0 = 0x1A#8 := by decide

/-- CommandFrame: a command run idle, and one that waits. -/
theorem test_witness_frame :
    (∃ t, exec (.decrypt 1#16) (demo 0x00001#18 [0x1A#8] true) = .next t)
    ∧ (demo 0x00001#18 [0x1A#8] true).busy = false
    ∧ (∃ t, exec (.decrypt 1#16) (after 1 (demoEvent 0x00001#18 [0x1A#8] true)) = .next t)
    ∧ (after 1 (demoEvent 0x00001#18 [0x1A#8] true)).busy = true :=
  ⟨⟨_, rfl⟩, rfl, ⟨_, rfl⟩, rfl⟩

/-- InputNeverWritten: a step that starts a command, one that starts none, and runs with and without a start. -/
theorem test_witness_input_never_written :
    (∃ t, step (demo 0x00001#18 [0x1A#8] true) = .next t)
    ∧ (demo 0x00001#18 [0x1A#8] true).resetPending = false ∧ (demo 0x00001#18 [0x1A#8] true).busy = false
    ∧ (demo 0x00001#18 [0x1A#8] true).port.valid = true
    ∧ (∃ t, step (after 1 (demoEvent 0x00001#18 [0x1A#8] true)) = .next t)
    ∧ (after 1 (demoEvent 0x00001#18 [0x1A#8] true)).busy = true
    ∧ (∃ t, runSteps 3 (demoEvent 0x00001#18 [0x1A#8] true) = .next t)
    ∧ (∃ t, runSteps 2 (after 1 (demoEvent 0x00001#18 [0x1A#8] true)) = .next t)
    ∧ (after 1 (demoEvent 0x00001#18 [0x1A#8] true)).port.valid = false :=
  ⟨⟨_, rfl⟩, rfl, rfl, rfl, ⟨_, rfl⟩, rfl, ⟨_, rfl⟩, ⟨_, rfl⟩, rfl⟩

/-- HostMayUseWaitingBuffer: a command in flight and one that waits, whose buffer is as long as the one placed. -/
theorem test_witness_waiting_buffer :
    waiting.busy = true ∧ (∃ t, step waiting = .next t) ∧ [0x2B#8].length = waiting.port.len :=
  ⟨rfl, ⟨_, rfl⟩, rfl⟩

/-- HexCommandsIgnoreKeyRegister: a BEAT, and a RESPOND. -/
theorem test_witness_hex_ignores_r :
    (after 1 (demoEvent 0x20000#18 [0x91#8] true)).busy = true
    ∧ (∃ t, step (after 1 (demoEvent 0x20000#18 [0x91#8] true)) = .next t ∧ t.busy = true)
    ∧ (∃ t, step (after 2 (demoEvent 0x20000#18 [0x91#8] true)) = .next t ∧ t.busy = false) :=
  ⟨by decide, ⟨_, rfl, by decide⟩, _, rfl, by decide⟩

/-- CipherRoundTrip: C-7 and its inverse, in both directions. -/
theorem test_witness_round_trip :
    (demo 0x0D971#18 [0xD9#8] true).Ready ∧ (demo 0x0D971#18 [0xD9#8] true).Granted
    ∧ (demo 0x0D971#18 [0xD9#8] true).input = [0xD9#8]
    ∧ Completes (exec (.encrypt 55665#16) (demo 0x1D971#18 [0x00#8] true)) (demo 0x1D971#18 [0x00#8] true)
        (.ok [0xD9#8] (some 54849#16))
    ∧ Completes (exec (.decrypt 55665#16) (demo 0x0D971#18 [0x00#8] true)) (demo 0x0D971#18 [0x00#8] true)
        (.ok [0xD9#8] (some 56284#16)) :=
  ⟨by decide, by decide, by decide,
   ⟨_, rfl, by decide, rfl, rfl, rfl, rfl, fun _ => rfl, rfl, rfl⟩,
   ⟨_, rfl, by decide, rfl, rfl, rfl, rfl, fun _ => rfl, rfl, rfl⟩⟩

/-- HexRoundTripAndCase: what HEXENC gave, and two texts that differ in case only. -/
theorem test_witness_hex_round_trip :
    (demo 0x30000#18 [0x31#8, 0x41#8] true).Ready ∧ (demo 0x30000#18 [0x31#8, 0x41#8] true).Granted
    ∧ (demo 0x30000#18 [0x31#8, 0x41#8] true).input = [0x31#8, 0x41#8]
    ∧ (∀ k, k < 2 → foldUpper ((demo 0x30000#18 [0x31#8, 0x61#8] true).port.input.read k)
        = foldUpper ((demo 0x30000#18 [0x31#8, 0x41#8] true).port.input.read k))
    ∧ answer (exec (.hexdec 0#16) (demo 0x30000#18 [0x31#8, 0x41#8] true)) = some (.ok [0x1A#8] none) := by
  decide

/-- HexencInjective, HexdecThenHexenc, HexdecEvenSplit: responses of the form they ask for. -/
theorem test_witness_hex_functions :
    commandResponse (.hexenc 0#16) [0x1A#8] true = commandResponse (.hexenc 1#16) [0x1A#8] true
    ∧ commandResponse (.hexdec 0#16) [0x31#8, 0x61#8] true = .ok [0x1A#8] none
    ∧ [0x31#8, 0x61#8].length % 2 = 0 := by decide

/-- ResponseFunctionOfCommand: two instances in different states, the same hex command but for R0. -/
theorem test_witness_function_of_command :
    (demo 0x20000#18 [0x1A#8] true).Ready ∧ (demoEvent 0x21234#18 [0x1A#8] true).Ready
    ∧ opOf (.hexenc 0#16) = opOf (.hexenc 0x1234#16)
    ∧ (demo 0x20000#18 [0x1A#8] true).input = (demoEvent 0x21234#18 [0x1A#8] true).input
    ∧ (demo 0x20000#18 [0x1A#8] true).port.allocOk = (demoEvent 0x21234#18 [0x1A#8] true).port.allocOk := by
  decide

/-- EarlierCommandsLeaveNoTrace and the first clause of NextCommandAsIfFirst: a command that fails. -/
theorem test_witness_after_failure :
    (demo 0x30000#18 [0x47#8] true).busy = false ∧ (demo 0x30000#18 [0x47#8] true).Ready
    ∧ Port.reset.misuse = none
    ∧ ∃ t, exec (.hexdec 0#16) (demo 0x30000#18 [0x47#8] true) = .next t ∧ t.response = some (.err .oddLength) :=
  ⟨by decide, by decide, rfl, _, rfl, rfl⟩

/-- PrecheckFailureReadsNoCell: each pre-check. -/
theorem test_witness_precheck :
    (demo 0x30000#18 [0x47#8] true).Ready
    ∧ precheck (opOf (.hexdec 0#16)) (demo 0x30000#18 [0x47#8] true).port.len
        (demo 0x30000#18 [0x47#8] true).port.allocOk = some .oddLength
    ∧ (demo 0x00000#18 [0x47#8] false).Ready
    ∧ precheck (opOf (.decrypt 0#16)) (demo 0x00000#18 [0x47#8] false).port.len
        (demo 0x00000#18 [0x47#8] false).port.allocOk = some .outOfMemory := by decide

/-- BeatReadsOneCell: other contents of IBUF that agree at I. -/
theorem test_witness_one_cell :
    (after 1 (demoEvent 0x0D971#18 [0x91#8, 0xA2#8] true)).BeatEnabled
    ∧ Memory.read [(0, 0x91#8)] (after 1 (demoEvent 0x0D971#18 [0x91#8, 0xA2#8] true)).work.i
        = (after 1 (demoEvent 0x0D971#18 [0x91#8, 0xA2#8] true)).ibuf.read
            (after 1 (demoEvent 0x0D971#18 [0x91#8, 0xA2#8] true)).work.i
    ∧ ∃ t, step (after 1 (demoEvent 0x0D971#18 [0x91#8, 0xA2#8] true)) = .next t :=
  ⟨by decide, by decide, _, rfl⟩

/-- InstancesIndependent: two instances, each with a command. -/
theorem test_witness_instances :
    ∃ mid last, stepInstance 0 [demo 0x20000#18 [0x1A#8] true, demo 0x10000#18 [0x1A#8] true] = .next mid
      ∧ stepInstance 1 mid = .next last :=
  ⟨_, _, rfl, rfl⟩

/-- StepKeepsInvariant, CountersFitTheirWidths, StepNeverFaults, BusyCommandAnswered: a command in flight. -/
theorem test_witness_invariant :
    (after 3 (demoEvent 0x30000#18 [0x30#8, 0x41#8, 0x61#8, 0x39#8] true)).Inv
    ∧ (after 3 (demoEvent 0x30000#18 [0x30#8, 0x41#8, 0x61#8, 0x39#8] true)).InFlight
    ∧ lenFits 3 (after 3 (demoEvent 0x30000#18 [0x30#8, 0x41#8, 0x61#8, 0x39#8] true)).work.len = true
    ∧ ∃ t, step (after 3 (demoEvent 0x30000#18 [0x30#8, 0x41#8, 0x61#8, 0x39#8] true)) = .next t :=
  ⟨by decide, by decide, by decide, _, rfl⟩

/-- StepNeverFaults, its second clause: a step that is refused in a state that meets the invariant. -/
theorem test_witness_refused :
    (after 1 (demoEvent 0x20000#18 [0x1A#8] true)).hostTouchObuf.Inv
    ∧ step (after 1 (demoEvent 0x20000#18 [0x1A#8] true)).hostTouchObuf
        = .refused (.hostMisuse .obufTouched) :=
  ⟨by decide, rfl⟩

end Sys2Proof.Tests
end

section
/-!
SUPPORT. A command in a ready state: it completes with the response of the command, whatever else the state holds.
-/
namespace Sys2Proof.Machine

/-- A whole command in a state that can take it delivers its response. -/
theorem runCommand_ready {s : State} (h : s.Ready) (rsp : Response) :
    runCommand s rsp = .next (s.takePresented.deliver rsp) := by
  obtain ⟨hbusy, hmisuse⟩ := h
  simp [runCommand, hbusy, hmisuse]

/-- Delivering a response from the state that took the presentation completes the command. -/
theorem completes_deliver (s : State) (rsp : Response) :
    Completes (.next (s.takePresented.deliver rsp)) s rsp :=
  ⟨_, rfl, rfl, rfl, rfl, rfl, rfl, fun _ => rfl, rfl, rfl⟩

/-- Every command in a ready state completes with the response of the command (40 R78, R80). -/
theorem exec_completes {s : State} (h : s.Ready) (i : Instr) :
    Completes (exec i s) s (commandResponse i s.input s.port.allocOk) := by
  rw [exec_eq_runCommand, runCommand_ready h]
  exact completes_deliver s _

/-- The response sees no more of an instruction than its operation and, for the cipher, its R0 (00 R6): the R0
field of a hex command is ignored (30 R60). -/
theorem commandResponse_congr (b : List Byte) (alloc : Bool) :
    ∀ {i j : Instr}, opOf i = opOf j → (opOf i = .decrypt ∨ opOf i = .encrypt → r0Of i = r0Of j) →
      commandResponse i b alloc = commandResponse j b alloc
  | .decrypt _, .decrypt _, _, hr0 => by rw [Option.some.inj (hr0 (.inl rfl))]
  | .encrypt _, .encrypt _, _, hr0 => by rw [Option.some.inj (hr0 (.inr rfl))]
  | .hexenc _, .hexenc _, _, _ => rfl
  | .hexdec _, .hexdec _, _, _ => rfl

end Sys2Proof.Machine
end

section
/-!
CLAIMS. The statements of spec 00 for this family.
-/
namespace Sys2Proof.Proofs.Scope

open Sys2Proof.Machine

/-- Settles O47: both commands complete with their own response, and the two responses are equal because the
commands agree in all that a response depends on. -/
theorem responseFunctionOfCommand : Obligations.ResponseFunctionOfCommand := by
  intro i j s u hs hu hop hr0 hinput halloc
  have hrsp : commandResponse j u.input u.port.allocOk = commandResponse i s.input s.port.allocOk := by
    rw [← hinput, ← halloc, commandResponse_congr _ _ hop hr0]
  exact ⟨_, rfl, exec_completes hs i, hrsp ▸ exec_completes hu j⟩

/-- Settles O34: shifting by eight leaves only the high byte, so the mask 0xFF takes nothing away. -/
theorem highByteValue : Obligations.HighByteValue := by
  intro r
  have hmask : ((r >>> 8) &&& 0xFF#16).toNat = (r.toNat >>> 8) % 2 ^ 8 := by
    rw [BitVec.toNat_and, BitVec.toNat_ushiftRight]
    exact Nat.and_two_pow_sub_one_eq_mod _ 8
  refine ⟨?_, rfl⟩
  rw [hmask, highByte, BitVec.extractLsb'_toNat]

end Sys2Proof.Proofs.Scope
end

section
/-!
SUPPORT. The step of a command in flight as an equation, and what a beat does to the staged output, to OLEN and
to BAD.
-/
namespace Sys2Proof.Machine

/-- With no RESET asserted, the step of a BUSY block is the event enabled. -/
theorem step_busy {s : State} (hbusy : s.busy = true) (hreset : s.resetPending = false) :
    step s = busyEvent s := by
  simp [step, stepEvent, hbusy, hreset]

/-- A complete command in flight responds. -/
theorem step_respond {s : State} (h : s.InFlight) (hcomplete : s.work.complete = true) :
    step s = .next (respond s) := by
  obtain ⟨hbusy, hreset, hmisuse⟩ := h
  rw [step_busy hbusy hreset]
  simp [busyEvent, hmisuse, hcomplete]

/-- A command in flight that is not complete takes a beat. -/
theorem step_beat {s : State} (h : s.InFlight) (hcomplete : s.work.complete = false)
    (hi : s.work.i < s.work.len) : step s = .next (beat s) := by
  obtain ⟨hbusy, hreset, hmisuse⟩ := h
  rw [step_busy hbusy hreset]
  simp [busyEvent, hmisuse, hcomplete, hi]

/-- A command that is not complete passed its pre-checks (40 R76). -/
theorem precheck_of_not_complete {w : Work} (h : w.complete = false) : w.precheck = none := by
  simp only [Work.complete, Bool.or_eq_false_iff, Option.isSome_eq_false_iff, Option.isNone_iff_eq_none] at h
  exact h.1

@[simp] theorem beat_busy (s : State) : (beat s).busy = s.busy := by rw [(beat_frame s).1]

@[simp] theorem beat_ibuf (s : State) : (beat s).ibuf = s.ibuf := by rw [(beat_frame s).1]

@[simp] theorem beat_port (s : State) : (beat s).port = s.port := by rw [(beat_frame s).1]

@[simp] theorem beat_work_op (s : State) : (beat s).work.op = s.work.op := (beat_frame s).2.1

@[simp] theorem beat_work_len (s : State) : (beat s).work.len = s.work.len := (beat_frame s).2.2.1

@[simp] theorem beat_work_alloc (s : State) : (beat s).work.alloc = s.work.alloc := (beat_frame s).2.2.2.1

@[simp] theorem beat_work_i (s : State) : (beat s).work.i = s.work.i + 1 := (beat_frame s).2.2.2.2

/-- A beat keeps the outcome of the pre-checks, which read only what ACCEPT latched. -/
@[simp] theorem beat_work_precheck (s : State) : (beat s).work.precheck = s.work.precheck := by
  simp [Work.precheck]

/-- A space in canonical form with nothing listed at `n` or above: an output of `n` cells. -/
def Memory.FilledTo (m : Memory) (n : Nat) : Prop :=
  m.wf = true ∧ m.all (fun c => decide (c.1 < n)) = true

/-- Writing the next cell of an output makes it one cell longer. -/
theorem Memory.FilledTo.write {m : Memory} {n : Nat} (h : m.FilledTo n) (v : Byte) :
    Memory.FilledTo (m.write n v) (n + 1) := by
  obtain ⟨hwf, hbelow⟩ := h
  refine ⟨Memory.wf_write m n v hwf, ?_⟩
  simp only [List.all_eq_true, decide_eq_true_eq] at hbelow ⊢
  intro c hc
  rcases Memory.mem_write m n v c hc with hold | rfl
  · exact Nat.lt_succ_of_lt (hbelow c hold)
  · exact Nat.lt_succ_self _

/-- A beat keeps the staged output canonical and below OLEN: each cell goes to the next place (40 R74). -/
theorem beat_filledTo {s : State} (h : s.staged.FilledTo s.work.olen) :
    (beat s).staged.FilledTo (beat s).work.olen := by
  cases hop : s.work.op with
  | decrypt => rw [beat_decrypt hop]; exact h.write _
  | encrypt => rw [beat_encrypt hop]; exact h.write _
  | hexenc => rw [beat_hexenc hop]; exact (h.write _).write _
  | hexdec =>
    rcases Nat.mod_two_eq_zero_or_one s.work.i with hi | hi
    · rw [beat_hexdec_even hop hi]; exact h
    · rw [beat_hexdec_odd hop hi]; exact h.write _

/-- A beat keeps OLEN the count of cells the beats so far staged (10 R17). -/
theorem beat_work_olen {s : State} (h : s.work.olen = stagedAfter s.work.op s.work.i) :
    (beat s).work.olen = stagedAfter s.work.op (s.work.i + 1) := by
  cases hop : s.work.op with
  | decrypt => rw [beat_decrypt hop]; simp [stagedAfter, h, hop]
  | encrypt => rw [beat_encrypt hop]; simp [stagedAfter, h, hop]
  | hexenc => rw [beat_hexenc hop]; simp [stagedAfter, h, hop, Nat.mul_succ]
  | hexdec =>
    simp only [hop, stagedAfter] at h ⊢
    rcases Nat.mod_two_eq_zero_or_one s.work.i with hi | hi
    · simp only [beat_hexdec_even hop hi, h]; omega
    · simp only [beat_hexdec_odd hop hi, h]; omega

/-- A beat sets BAD where HEXDEC reads a character that is no digit, and leaves it alone otherwise (10 R16). -/
theorem beat_work_bad (s : State) :
    (beat s).work.bad = (s.work.bad || (decide (s.work.op = .hexdec) && (decLut s.loadCell).isNone)) := by
  cases hop : s.work.op with
  | decrypt => rw [beat_decrypt hop]; simp
  | encrypt => rw [beat_encrypt hop]; simp
  | hexenc => rw [beat_hexenc hop]; simp
  | hexdec =>
    rcases Nat.mod_two_eq_zero_or_one s.work.i with hi | hi
    · rw [beat_hexdec_even hop hi]; simp [badAfter]
    · rw [beat_hexdec_odd hop hi]; simp [badAfter]

end Sys2Proof.Machine
end

section
/-!
SUPPORT. The invariant of a block, kept by each kind of event.
-/
namespace Sys2Proof.Machine

/-- An idle block with nothing staged meets the invariant when its input buffers are canonical. -/
theorem State.Inv.of_idle {s : State} (hbusy : s.busy = false) (hstaged : s.staged = [])
    (hibuf : s.ibuf.wf = true) (hinput : s.port.input.wf = true) : s.Inv :=
  ⟨hibuf, by rw [hstaged]; rfl, hinput, fun h => by simp [hbusy] at h, fun _ => hstaged⟩

/-- RESET establishes what the invariant says of the command: there is none in flight. -/
theorem takeReset_keeps_inv {s : State} (h : s.Inv) : s.takeReset.Inv := by
  obtain ⟨hibuf, -, hinput, -⟩ := h
  exact .of_idle rfl rfl hibuf hinput

/-- RESPOND leaves the block idle with nothing staged. -/
theorem respond_keeps_inv {s : State} (h : s.Inv) : (respond s).Inv := by
  obtain ⟨hibuf, -, hinput, -⟩ := h
  exact .of_idle rfl rfl hibuf hinput

/-- A whole command makes the presented buffer IBUF and leaves the block idle. -/
theorem exec_keeps_inv {s t : State} {i : Instr} (h : s.Inv) (hexec : exec i s = .next t) : t.Inv := by
  rw [exec_eq_runCommand] at hexec
  rcases runCommand_next hexec with ⟨-, rfl⟩ | ⟨-, rfl⟩
  · exact h
  · obtain ⟨-, -, hinput, -⟩ := h
    exact .of_idle rfl rfl hinput hinput

/-- ACCEPT puts a command in flight with no cell read and none staged. -/
theorem accept_keeps_inv {s : State} (h : s.Inv) (op : Op) (r0 : Option Word) : (s.accept op r0).Inv := by
  obtain ⟨-, -, hinput, -⟩ := h
  have hflight : (s.accept op r0).FlightOk := by
    refine ⟨Nat.zero_le _, .inr rfl, ?_, rfl, by simp⟩
    cases op <;> simp [stagedAfter]
  exact ⟨hinput, rfl, hinput, fun _ => hflight, fun hidle => by simp at hidle⟩

/-- A beat keeps the registers of the command in flight consistent: each clause follows the one cell more that
was read. -/
theorem beat_keeps_flightOk {s : State} (h : s.FlightOk) (hwf : s.staged.wf = true)
    (hprecheck : s.work.precheck = none) (hi : s.work.i < s.work.len) : (beat s).FlightOk := by
  obtain ⟨-, -, holen, hbelow, hbad⟩ := h
  have hcount : (beat s).work.i ≤ (beat s).work.len := by
    rw [beat_work_i, beat_work_len]
    exact Nat.succ_le_of_lt hi
  have hchecked : (beat s).work.precheck = none := by rw [beat_work_precheck, hprecheck]
  have holen' : (beat s).work.olen = stagedAfter (beat s).work.op (beat s).work.i := by
    rw [beat_work_olen holen, beat_work_op, beat_work_i]
  refine ⟨hcount, .inl hchecked, holen', (beat_filledTo ⟨hwf, hbelow⟩).2, ?_⟩
  rw [beat_work_bad, hbad, ← Bool.and_or_distrib_left]
  simp [Memory.cells_succ, State.loadCell]

/-- A beat of a command in flight keeps the invariant. -/
theorem beat_keeps_inv {s : State} (h : s.Inv) (hbusy : s.busy = true) (hcomplete : s.work.complete = false)
    (hi : s.work.i < s.work.len) : (beat s).Inv := by
  obtain ⟨hibuf, hstaged, hinput, hflight, -⟩ := h
  obtain ⟨-, -, -, hbelow, -⟩ := hflight hbusy
  exact ⟨by rw [beat_ibuf]; exact hibuf, (beat_filledTo ⟨hstaged, hbelow⟩).1, by rw [beat_port]; exact hinput,
    fun _ => beat_keeps_flightOk (hflight hbusy) hstaged (precheck_of_not_complete hcomplete) hi,
    fun hidle => by simp [hbusy] at hidle⟩

/-- At most two cells are staged a beat. -/
theorem stagedAfter_le (op : Op) (i : Nat) : stagedAfter op i ≤ 2 * i := by
  cases op <;> simp only [stagedAfter] <;> omega

end Sys2Proof.Machine
end

section
/-!
SUPPORT. The events of the hex commands and the key register (10 R12).
-/
namespace Sys2Proof.Machine

/-- The response of a hex command does not depend on R. -/
theorem formResponse_setR {s : State} (x : Word) (hop : s.work.op = .hexenc ∨ s.work.op = .hexdec) :
    (s.setR x).formResponse = s.formResponse := by
  rcases hop with hop | hop
  · simp [State.formResponse, State.stagedCells, hop]
  · cases hbad : s.work.bad <;> simp [State.formResponse, State.stagedCells, hop, hbad]

/-- RESPOND of a hex command leaves the same state whatever R held. -/
theorem respond_setR {s : State} (x : Word) (hop : s.work.op = .hexenc ∨ s.work.op = .hexdec) :
    respond (s.setR x) = respond s := by
  rw [respond, formResponse_setR x hop]
  rfl

/-- The beat of a hex command commutes with a change of R. -/
theorem beat_setR {s : State} (x : Word) (hop : s.work.op = .hexenc ∨ s.work.op = .hexdec) :
    beat (s.setR x) = (beat s).setR x := by
  rcases hop with hop | hop
  · rw [beat_hexenc hop, beat_hexenc (s := s.setR x) hop]; rfl
  · rcases Nat.mod_two_eq_zero_or_one s.work.i with hi | hi
    · rw [beat_hexdec_even hop hi, beat_hexdec_even (s := s.setR x) hop hi]; rfl
    · rw [beat_hexdec_odd hop hi, beat_hexdec_odd (s := s.setR x) hop hi]; rfl

/-- The beat of a hex command keeps R: it commutes with writing R its own value. -/
theorem beat_work_r_of_hex {s : State} (hop : s.work.op = .hexenc ∨ s.work.op = .hexdec) :
    (beat s).work.r = s.work.r := by
  have hsame : beat s = (beat s).setR s.work.r := beat_setR s.work.r hop
  rw [hsame, State.setR_work_r]

end Sys2Proof.Machine
end

section
/-!
CLAIMS. The statements of spec 10 for this family.
-/
namespace Sys2Proof.Proofs.Registers

open Sys2Proof.Machine

/-- Settles O54, by the kinds of step: RESET, RESPOND, a beat, a whole command, ACCEPT, or none enabled. -/
theorem stepKeepsInvariant : Obligations.StepKeepsInvariant := by
  intro s t hinv hstep
  rcases step_next hstep with ⟨-, rfl⟩ | ⟨-, hbusy, hevent⟩ | ⟨-, -, -, ⟨-, hexec⟩ | ⟨-, rfl⟩⟩ | ⟨-, -, -, rfl⟩
  · exact takeReset_keeps_inv hinv
  · rcases busyEvent_next hevent with ⟨-, ⟨-, rfl⟩ | ⟨hcomplete, hi, rfl⟩⟩
    · exact respond_keeps_inv hinv
    · exact beat_keeps_inv hinv hbusy hcomplete hi
  · exact exec_keeps_inv hinv hexec
  · exact accept_keeps_inv hinv _ _
  · exact hinv

/-- Settles O32: RESPOND hands over no R, and a beat commutes with a change of it. -/
theorem hexCommandsIgnoreKeyRegister : Obligations.HexCommandsIgnoreKeyRegister := by
  intro s t x hbusy hreset hop hstep
  rw [step_busy hbusy hreset] at hstep
  change step (s.setR x) = .next (if t.busy then t.setR x else t) ∧ _
  rcases busyEvent_next hstep with ⟨hmisuse, ⟨hcomplete, rfl⟩ | ⟨hcomplete, hi, rfl⟩⟩
  · have hidle : (respond s).busy = false := rfl
    rw [step_respond (s := s.setR x) ⟨hbusy, hreset, hmisuse⟩ hcomplete, respond_setR x hop]
    simp [hidle]
  · rw [step_beat (s := s.setR x) ⟨hbusy, hreset, hmisuse⟩ hcomplete hi, beat_setR x hop]
    simp [hbusy, beat_work_r_of_hex hop]

/-- Settles O55: OLEN is at most 2 * I, and I at most LEN. -/
theorem countersFitTheirWidths : Obligations.CountersFitTheirWidths := by
  intro lenW s ⟨_, _, _, hflight, _⟩ hbusy hfits
  obtain ⟨hi, -, holen, -, -⟩ := hflight hbusy
  have hlen : s.work.len < 2 ^ lenW := by simpa [lenFits] using hfits
  have htwice : s.work.olen ≤ 2 * s.work.i := holen ▸ stagedAfter_le _ _
  rw [Nat.pow_succ]
  omega

/-- Settles O48: a whole command reads the ports, and what it delivers overwrites all that an earlier one left. -/
theorem earlierCommandsLeaveNoTrace : Obligations.EarlierCommandsLeaveNoTrace := by
  intro i s w m b rsp hbusy
  rw [exec_eq_runCommand, exec_eq_runCommand]
  cases hmisuse : s.port.misuse with
  | some u => simp [runCommand, hbusy, hmisuse]
  | none =>
    have hready : s.Ready := ⟨hbusy, hmisuse⟩
    have hready' : State.Ready { s with work := w, staged := m, ibuf := b, response := rsp } := hready
    rw [runCommand_ready hready, runCommand_ready hready']
    rfl

/-- Settles O53: the reset state is idle and its buffers list nothing. -/
theorem resetIdleAndInvariant : Obligations.ResetIdleAndInvariant :=
  ⟨rfl, rfl, rfl, .of_idle rfl rfl rfl rfl⟩

end Sys2Proof.Proofs.Registers
end

section
/-!
SUPPORT. What a command does with the buffers: which cells its answer and its beats depend on, what a command, a
step and a run leave in them, and when they are refused.
-/
namespace Sys2Proof.Machine

/-! ### A failed pre-check -/

/-- An operation that needs a buffer and failed a pre-check was denied that buffer, whatever it would have answered. -/
theorem withBuffer_of_precheck {op : Op} {n l : Nat} {alloc : Bool} {f : Failure}
    (hlen : requiredLength op n = some l) (h : precheck op n alloc = some f) (rsp : Response) :
    withBuffer l alloc rsp = .err f := by
  cases hdenied : allocDenied l alloc with
  | true =>
    have hf : Failure.outOfMemory = f := by simpa [precheck, hlen, hdenied] using h
    simp [withBuffer, hdenied, hf]
  | false => simp [precheck, hlen, hdenied] at h

/-- A failed pre-check is the response of the command, whatever cells its buffer holds (40 R72, R73). -/
theorem commandResponse_of_precheck {i : Instr} {b : List Byte} {alloc : Bool} {f : Failure}
    (h : precheck (opOf i) b.length alloc = some f) : commandResponse i b alloc = .err f := by
  cases i with
  | decrypt r0 => exact withBuffer_of_precheck (requiredLength_decrypt _) h _
  | encrypt r0 => exact withBuffer_of_precheck (requiredLength_encrypt _) h _
  | hexenc r0 => exact withBuffer_of_precheck (requiredLength_hexenc _) h _
  | hexdec r0 =>
    rcases Nat.mod_two_eq_zero_or_one b.length with heven | hodd
    · have hlen : requiredLength .hexdec b.length = some (b.length / 2) := by simp [requiredLength_hexdec, heven]
      simpa [commandResponse, hexdecResponse, heven] using withBuffer_of_precheck hlen h _
    · have hf : Failure.oddLength = f := by simpa [precheck, requiredLength_hexdec, hodd] using h
      simp [commandResponse, hexdecResponse, hodd, hf]

/-- In a ready state a command that a pre-check fails completes with that failure. -/
theorem exec_completes_of_precheck {i : Instr} {s : State} {f : Failure} (hready : s.Ready)
    (h : precheck (opOf i) s.port.len s.port.allocOk = some f) : Completes (exec i s) s (.err f) := by
  have hcells : precheck (opOf i) s.input.length s.port.allocOk = some f := by
    rwa [State.input, Memory.cells_length]
  exact commandResponse_of_precheck hcells ▸ exec_completes hready i

/-! ### The cell a beat reads -/

/-- A BEAT enabled is the step taken (40 R74). -/
theorem step_of_beatEnabled {s : State} (h : s.BeatEnabled) : step s = .next (beat s) := by
  obtain ⟨hflight, hprecheck, hi⟩ := h
  have hcomplete : s.work.complete = false := by simp [Work.complete, hprecheck, Nat.ne_of_lt hi]
  exact step_beat hflight hcomplete hi

/-- A beat commutes with a change of IBUF that leaves cell I as it was: all it reads of IBUF is the loaded cell. -/
theorem beat_congr_ibuf {s : State} {m : Memory} (h : m.read s.work.i = s.ibuf.read s.work.i) :
    beat { s with ibuf := m } = { beat s with ibuf := m } := by
  have hload : State.loadCell { s with ibuf := m } = s.loadCell := h
  have hdigit : State.beatDigit { s with ibuf := m } = s.beatDigit := by simp only [State.beatDigit, hload]
  cases hop : s.work.op with
  | decrypt => rw [beat_decrypt hop, beat_decrypt (s := { s with ibuf := m }) hop, hload]
  | encrypt => rw [beat_encrypt hop, beat_encrypt (s := { s with ibuf := m }) hop, hload]
  | hexenc => rw [beat_hexenc hop, beat_hexenc (s := { s with ibuf := m }) hop, hload]
  | hexdec =>
    rcases Nat.mod_two_eq_zero_or_one s.work.i with hi | hi
    · rw [beat_hexdec_even hop hi, beat_hexdec_even (s := { s with ibuf := m }) hop hi, hload, hdigit]
    · rw [beat_hexdec_odd hop hi, beat_hexdec_odd (s := { s with ibuf := m }) hop hi, hload, hdigit]

/-! ### What a command, a step and a run leave in the buffers -/

@[simp] theorem respond_port (s : State) : (respond s).port = s.port := rfl

@[simp] theorem respond_ibuf (s : State) : (respond s).ibuf = s.ibuf := rfl

/-- If a command answers a next state, it waited (BUSY), or took the presentation and delivered its response. -/
theorem exec_next {i : Instr} {s t : State} (h : exec i s = .next t) :
    (s.busy = true ∧ t = s)
    ∨ (s.Ready ∧ t = s.takePresented.deliver (commandResponse i s.input s.port.allocOk)) := by
  rw [exec_eq_runCommand] at h
  exact runCommand_next h

/-- The presented command is the next thing a step takes, whole or its ACCEPT. -/
def State.StartsCommand (s : State) : Prop :=
  s.resetPending = false ∧ s.busy = false ∧ s.port.valid = true

/-- A step either starts the presented command, whose buffer is handed over as it stands and whose presentation is
taken, or leaves the port and IBUF as they were (20 R32, R33). -/
theorem step_buffers {s t : State} (h : step s = .next t) :
    (s.StartsCommand ∧ t.port = { s.port with valid := false } ∧ t.ibuf = s.port.input)
    ∨ (¬ s.StartsCommand ∧ t.port = s.port ∧ t.ibuf = s.ibuf) := by
  rcases step_next h with ⟨hreset, rfl⟩ | ⟨-, hbusy, hevent⟩ | ⟨hreset, ⟨hidle, -⟩, hvalid, hstart⟩
    | ⟨-, -, hvalid, rfl⟩
  · exact .inr ⟨by simp [State.StartsCommand, hreset], rfl, rfl⟩
  · refine .inr ⟨by simp [State.StartsCommand, hbusy], ?_⟩
    rcases busyEvent_next hevent with ⟨-, ⟨-, rfl⟩ | ⟨-, -, rfl⟩⟩
    · exact ⟨respond_port s, respond_ibuf s⟩
    · exact ⟨beat_port s, beat_ibuf s⟩
  · refine .inl ⟨⟨hreset, hidle, hvalid⟩, ?_⟩
    rcases hstart with ⟨-, hexec⟩ | ⟨-, rfl⟩
    · rcases exec_next hexec with ⟨hbusy, -⟩ | ⟨-, rfl⟩
      · simp [hidle] at hbusy
      · exact ⟨rfl, rfl⟩
    · exact ⟨rfl, rfl⟩
  · exact .inr ⟨by simp [State.StartsCommand, hvalid], rfl, rfl⟩

/-- Between two states of a run no input cell was written: the presented buffer is as it was, IBUF is as it was or
that buffer, and with nothing presented it is as it was and nothing is presented. -/
structure InputKept (s t : State) : Prop where
  input : t.port.input = s.port.input
  idlePort : s.port.valid = false → t.port.valid = false ∧ t.ibuf = s.ibuf
  ibuf : t.ibuf = s.ibuf ∨ t.ibuf = s.port.input

theorem InputKept.refl (s : State) : InputKept s s := ⟨rfl, fun h => ⟨h, rfl⟩, .inl rfl⟩

theorem InputKept.trans {s t u : State} (hst : InputKept s t) (htu : InputKept t u) : InputKept s u where
  input := htu.input.trans hst.input
  idlePort hvalid := by
    obtain ⟨hvalid', hibuf⟩ := hst.idlePort hvalid
    obtain ⟨hvalid'', hibuf'⟩ := htu.idlePort hvalid'
    exact ⟨hvalid'', hibuf'.trans hibuf⟩
  ibuf := by
    rcases htu.ibuf with hibuf | hibuf
    · rw [hibuf]; exact hst.ibuf
    · exact .inr (hibuf.trans hst.input)

/-- A step writes no input cell. -/
theorem step_inputKept {s t : State} (h : step s = .next t) : InputKept s t := by
  rcases step_buffers h with ⟨⟨-, -, hvalid⟩, hport, hibuf⟩ | ⟨-, hport, hibuf⟩
  · exact ⟨by rw [hport], fun hnone => by simp [hvalid] at hnone, .inr hibuf⟩
  · exact ⟨by rw [hport], fun hnone => ⟨by rw [hport, hnone], hibuf⟩, .inl hibuf⟩

/-- A run writes no input cell. -/
theorem runSteps_inputKept {k : Nat} {s t : State} (h : runSteps k s = .next t) : InputKept s t := by
  induction k generalizing s with
  | zero =>
    rw [runSteps_zero] at h
    cases h
    exact .refl _
  | succ k ih =>
    obtain ⟨u, hstep, hrun⟩ := runSteps_succ_inv k h
    exact (step_inputKept hstep).trans (ih hrun)

/-! ### Misused buffers -/

/-- A command presented with misused buffers is refused (93 U7). -/
theorem exec_misused {s : State} {m : HostMisuse} (hbusy : s.busy = false) (hmisuse : s.port.misuse = some m)
    (i : Instr) : exec i s = .refused (.hostMisuse m) := by
  rw [exec_eq_runCommand]
  simp [runCommand, hbusy, hmisuse]

/-- With no RESET asserted, the step of an idle block starts the presented command. -/
theorem step_start {s : State} (h : s.StartsCommand) : step s = startEvent s := by
  obtain ⟨hreset, hbusy, hvalid⟩ := h
  simp [step, stepEvent, hreset, hbusy, hvalid]

/-- A presented command with misused buffers is refused at its start, whole or event by event. -/
theorem startEvent_misused {s : State} {m : HostMisuse} (hbusy : s.busy = false)
    (hmisuse : s.port.misuse = some m) : startEvent s = .refused (.hostMisuse m) := by
  cases hgrain : s.grain with
  | command => simpa [startEvent, hgrain] using exec_misused hbusy hmisuse _
  | event => simp [startEvent, hgrain, acceptEvent, hmisuse]

/-- A command in flight whose buffers the host misused is refused (93 U6, U7). -/
theorem busyEvent_misused {s : State} {m : HostMisuse} (h : s.misuse = some m) :
    busyEvent s = .refused (.hostMisuse m) := by
  simp [busyEvent, h]

end Sys2Proof.Machine
end

section
/-!
CLAIMS. The statements of spec 20 for this family.
-/
namespace Sys2Proof.Proofs.BufferSpaces

open Sys2Proof.Machine

/-- Settles O30: a command that waited changed nothing, and one that ran took the presentation and delivered. -/
theorem commandFrame : Obligations.CommandFrame := by
  intro i s t hexec
  rcases exec_next hexec with ⟨hbusy, rfl⟩ | ⟨⟨hidle, -⟩, rfl⟩
  · simp [hbusy]
  · simp [hidle]

/-- Settles O31: a step starts the presented command or keeps port and IBUF, and a run is made of steps. -/
theorem inputNeverWritten : Obligations.InputNeverWritten := by
  refine ⟨fun s t hstep => ?_, fun k s t hrun => ?_⟩
  · have hinput := (step_inputKept hstep).input
    refine ⟨hinput, fun a => by rw [hinput], fun hnone => ?_, fun hreset hbusy hvalid => ?_⟩
    · rcases step_buffers hstep with ⟨⟨hreset, hbusy, hvalid⟩, -⟩ | ⟨-, -, hibuf⟩
      · simp [hreset, hbusy, hvalid] at hnone
      · exact ⟨hibuf, fun a => by rw [hibuf]⟩
    · rcases step_buffers hstep with ⟨-, -, hibuf⟩ | ⟨hstays, -⟩
      · exact ⟨hibuf, fun a => by rw [hibuf]⟩
      · exact absurd ⟨hreset, hbusy, hvalid⟩ hstays
  · obtain ⟨hinput, hidlePort, hibuf⟩ := runSteps_inputKept hrun
    exact ⟨fun a => by rw [hinput], fun hvalid a => by rw [(hidlePort hvalid).2],
      hibuf.imp (fun h a => by rw [h]) (fun h a => by rw [h])⟩

/-- Settles O50: the pre-checks read LEN and ALLOC_OK, which other cells in the buffer leave alone. -/
theorem precheckFailureReadsNoCell : Obligations.PrecheckFailureReadsNoCell := by
  intro i s m f hready hprecheck
  exact ⟨exec_completes_of_precheck hready hprecheck,
    exec_completes_of_precheck (s := { s with port := { s.port with input := m } }) hready hprecheck⟩

/-- Settles O51: a BEAT is enabled with the other contents too, and the beat commutes with the change of IBUF. -/
theorem beatReadsOneCell : Obligations.BeatReadsOneCell := by
  intro s t m hbeat hcell hstep
  rw [step_of_beatEnabled hbeat] at hstep
  cases hstep
  rw [step_of_beatEnabled (s := { s with ibuf := m }) hbeat, beat_congr_ibuf hcell]

/-- Settles O28: the misuse is looked at before the command, or the event of the command in flight, is taken. -/
theorem misusedBuffersRefused : Obligations.MisusedBuffersRefused := by
  refine ⟨fun i s m hidle hmisuse => exec_misused hidle hmisuse i,
    fun s m hreset hidle hvalid hmisuse => ?_, fun s m hreset hbusy hmisuse => ?_⟩
  · rw [step_start ⟨hreset, hidle, hvalid⟩, startEvent_misused hidle hmisuse]
  · rw [step_busy hbusy hreset, busyEvent_misused hmisuse]

end Sys2Proof.Proofs.BufferSpaces
end

section
/-!
SUPPORT. The decoder and the encoder of the command word: each is fixed by the two fields of the word, so each undoes
the other, and the decoder on numbers is the decoder on the words they are.
-/
namespace Sys2Proof

/-- A command word is its operation code above its R0 field (30 R50). -/
theorem cmdOp_append_cmdR0 (w : CmdWord) : (cmdOp w ++ cmdR0 w : CmdWord) = w := by
  rw [cmdOp, cmdR0, BitVec.extractLsb'_append_extractLsb'_eq_extractLsb' (by decide)]
  exact BitVec.extractLsb'_eq_self

/-- The word of an instruction decodes to its fields (30 R50, R51). -/
theorem encodeCmd_fields (i : Instr) : cmdOp (encodeCmd i) = i.opCode ∧ cmdR0 (encodeCmd i) = i.r0Field :=
  Laws.EncodeFields.fields_of_append i.opCode i.r0Field

/-- The decoder is fixed by the two fields: a word that holds those of an instruction decodes to it. -/
theorem decodeCmd_of_fields {w : CmdWord} {i : Instr} (hop : cmdOp w = i.opCode) (hr0 : cmdR0 w = i.r0Field) :
    decodeCmd w = i := by
  cases i <;> simp [decodeCmd, hop, hr0, Instr.opCode, Instr.r0Field]

/-- Every word holds the fields of the instruction it decodes to: the operation codes leave no word out (30 R59). -/
theorem decodeCmd_fields (w : CmdWord) : (decodeCmd w).opCode = cmdOp w ∧ (decodeCmd w).r0Field = cmdR0 w := by
  have hcodes : ∀ c : BitVec 2, c = 0#2 ∨ c = 1#2 ∨ c = 2#2 ∨ c = 3#2 := by decide
  rcases hcodes (cmdOp w) with h | h | h | h <;> simp [decodeCmd, h, Instr.opCode, Instr.r0Field]

@[simp] theorem decodeCmd_encodeCmd (i : Instr) : decodeCmd (encodeCmd i) = i :=
  decodeCmd_of_fields (encodeCmd_fields i).1 (encodeCmd_fields i).2

@[simp] theorem encodeCmd_decodeCmd (w : CmdWord) : encodeCmd (decodeCmd w) = w := by
  obtain ⟨hop, hr0⟩ := decodeCmd_fields w
  rw [encodeCmd, hop, hr0, cmdOp_append_cmdR0]

/-- The value of a command word: the operation code counts 0x10000 (30 R50). -/
theorem encodeCmd_toNat (i : Instr) : (encodeCmd i).toNat = 0x10000 * i.opCode.toNat + i.r0Field.toNat := by
  rw [encodeCmd, BitVec.toNat_append, ← Nat.shiftLeft_add_eq_or_of_lt i.r0Field.isLt, Nat.shiftLeft_eq, Nat.mul_comm]

/-- The number of an instruction's word decodes to the instruction. -/
theorem decodeCmd_ofNat {i : Instr} {n : Nat} (h : 0x10000 * i.opCode.toNat + i.r0Field.toNat = n) :
    decodeCmd (BitVec.ofNat 18 n) = i := by
  rw [← h, ← encodeCmd_toNat, BitVec.ofNat_toNat, BitVec.setWidth_eq, decodeCmd_encodeCmd]

/-- A number that fits CMD decodes as the word it is. -/
theorem decodeTableWord_of_lt {w : Nat} (h : w < 2 ^ 18) (nbits : Nat) :
    decodeTableWord nbits w = some (decodeCmd (BitVec.ofNat 18 w)) := by
  have hfits : cmdFits w = true := decide_eq_true h
  simp [decodeTableWord, decodeWord, hfits]

/-- A number wider than CMD is no command word (log entry 11). -/
theorem decodeTableWord_of_le {w : Nat} (h : 2 ^ 18 ≤ w) (nbits : Nat) : decodeTableWord nbits w = none := by
  have hwide : cmdFits w = false := decide_eq_false (Nat.not_lt.mpr h)
  simp [decodeTableWord, decodeWord, hwide]

/-- The number of an instruction's word is decoded to the instruction. -/
theorem decodeTableWord_of_toNat {i : Instr} {w : Nat} (h : (encodeCmd i).toNat = w) (nbits : Nat) :
    decodeTableWord nbits w = some i := by
  rw [decodeTableWord_of_lt (h ▸ (encodeCmd i).isLt), decodeCmd_ofNat (encodeCmd_toNat i ▸ h)]

end Sys2Proof
end

section
/-!
SUPPORT. What a command answers: the length of each operation's output, and the response of every command in its
cases (a pre-check failed, a character is no digit, a success).
-/
namespace Sys2Proof.Machine

/-! ### The length of an output -/

@[simp] theorem decryptFrom_length (r : Word) (b : List Byte) : (decryptFrom r b).1.length = b.length := by
  induction b generalizing r with
  | nil => rfl
  | cons c cs ih => simp [decryptFrom, ih]

@[simp] theorem encryptFrom_length (r : Word) (b : List Byte) : (encryptFrom r b).1.length = b.length := by
  induction b generalizing r with
  | nil => rfl
  | cons p ps ih => simp [encryptFrom, ih]

@[simp] theorem hexEncodeCells_length (b : List Byte) : (hexEncodeCells b).length = 2 * b.length := by
  induction b with
  | nil => rfl
  | cons c cs ih => simp [hexEncodeCells, ih, Nat.mul_succ]

/-- A pair decodes when both its characters are digits, and its byte comes before those of the rest (43 R125). -/
theorem hexDecodePairs_cons_cons_eq_some {h l : Byte} {t out : List Byte} :
    hexDecodePairs (h :: l :: t) = some out ↔
      ∃ vh vl rest, decLut h = some vh ∧ decLut l = some vl ∧ hexDecodePairs t = some rest
        ∧ joinNibbles vh vl :: rest = out := by
  constructor
  · intro hpairs
    rw [hexDecodePairs] at hpairs
    split at hpairs
    case h_1 vh vl rest hh hl ht => exact ⟨vh, vl, rest, hh, hl, ht, Option.some.inj hpairs⟩
    case h_2 => cases hpairs
  · rintro ⟨vh, vl, rest, hh, hl, ht, rfl⟩
    simp [hexDecodePairs, hh, hl, ht]

/-- The bytes a text decodes to are half as many as its characters (43 R120). -/
theorem hexDecodePairs_length :
    ∀ {t out : List Byte}, hexDecodePairs t = some out → out.length = t.length / 2
  | [], _, h => by cases h; rfl
  | [_], _, h => by cases h
  | _ :: _ :: t, _, h => by
    obtain ⟨_, _, rest, -, -, hrest, rfl⟩ := hexDecodePairs_cons_cons_eq_some.mp h
    have ih : rest.length = t.length / 2 := hexDecodePairs_length hrest
    simp only [List.length_cons, ih]
    omega

/-! ### The pre-checks -/

/-- A failed pre-check is OddLength, of HEXDEC alone, or OutOfMemory, of an output that is not empty (40 R72, R73). -/
theorem precheck_eq_some {op : Op} {n : Nat} {alloc : Bool} {f : Failure} (h : precheck op n alloc = some f) :
    (f = .oddLength ∧ op = .hexdec) ∨ (f = .outOfMemory ∧ ∃ l, requiredLength op n = some l ∧ 0 < l) := by
  cases hlen : requiredLength op n with
  | none =>
    refine .inl ⟨by simpa [precheck, hlen] using h.symm, ?_⟩
    cases op <;> simp at hlen ⊢
  | some l =>
    obtain ⟨⟨hpos, -⟩, hf⟩ : (0 < l ∧ alloc = false) ∧ Failure.outOfMemory = f := by
      simpa [precheck, hlen, allocDenied] using h
    exact .inr ⟨hf.symm, l, rfl, hpos⟩

/-- With its pre-checks passed, an operation has the length of its output, and its buffer is granted. -/
theorem withBuffer_of_precheck_none {op : Op} {n l : Nat} {alloc : Bool} (hlen : requiredLength op n = some l)
    (h : precheck op n alloc = none) (rsp : Response) : withBuffer l alloc rsp = rsp := by
  have hgranted : allocDenied l alloc = false := by simpa [precheck, hlen] using h
  simp [withBuffer, hgranted]

/-! ### The response of a command -/

/-- A success of a command: its output is as long as the operation requires, and it has an Rfinal exactly for the
cipher (30 R57, R58). -/
structure SuccessOf (i : Instr) (n : Nat) (out : List Byte) (rfinal : Option Word) : Prop where
  length : requiredLength (opOf i) n = some out.length
  rfinal : rfinal.isSome = true ↔ opOf i = .decrypt ∨ opOf i = .encrypt

/-- A command whose pre-checks pass answers InvalidDigit, if it is HEXDEC, or a success. -/
theorem commandResponse_of_precheck_none {i : Instr} {b : List Byte} {alloc : Bool}
    (h : precheck (opOf i) b.length alloc = none) :
    (opOf i = .hexdec ∧ commandResponse i b alloc = .err .invalidDigit)
    ∨ ∃ out rfinal, commandResponse i b alloc = .ok out rfinal ∧ SuccessOf i b.length out rfinal := by
  cases i with
  | decrypt r0 =>
    exact .inr ⟨_, _, withBuffer_of_precheck_none (requiredLength_decrypt _) h _, by simp, by simp⟩
  | encrypt r0 =>
    exact .inr ⟨_, _, withBuffer_of_precheck_none (requiredLength_encrypt _) h _, by simp, by simp⟩
  | hexenc r0 =>
    exact .inr ⟨_, _, withBuffer_of_precheck_none (requiredLength_hexenc _) h _, by simp, by simp⟩
  | hexdec r0 =>
    have heven : b.length % 2 = 0 := by
      rcases Nat.mod_two_eq_zero_or_one b.length with heven | hodd
      · exact heven
      · simp [precheck, requiredLength_hexdec, hodd] at h
    have hlen : requiredLength .hexdec b.length = some (b.length / 2) := by simp [requiredLength_hexdec, heven]
    have hgranted := withBuffer_of_precheck_none hlen h
    cases hpairs : hexDecodePairs b with
    | none => exact .inl ⟨rfl, by simp [commandResponse, hexdecResponse, heven, hpairs, hgranted]⟩
    | some out =>
      refine .inr ⟨out, none, by simp [commandResponse, hexdecResponse, heven, hpairs, hgranted], ?_, by simp⟩
      rw [hexDecodePairs_length hpairs]
      exact hlen

/-- Every success of a command is one of its operation: the length required, and an Rfinal for the cipher alone. -/
theorem commandResponse_ok {i : Instr} {b out : List Byte} {alloc : Bool} {rfinal : Option Word}
    (h : commandResponse i b alloc = .ok out rfinal) : SuccessOf i b.length out rfinal := by
  cases hprecheck : precheck (opOf i) b.length alloc with
  | some f => simp [commandResponse_of_precheck hprecheck] at h
  | none =>
    rcases commandResponse_of_precheck_none hprecheck with ⟨-, herr⟩ | ⟨out', rfinal', hok, hsuccess⟩
    · simp [herr] at h
    · obtain ⟨rfl, rfl⟩ : out' = out ∧ rfinal' = rfinal := by simpa [hok] using h
      exact hsuccess

/-- Which commands fail, and how: OutOfMemory where an output is needed, a format error of HEXDEC alone. -/
theorem commandResponse_err {i : Instr} {b : List Byte} {alloc : Bool} {f : Failure}
    (h : commandResponse i b alloc = .err f) :
    (f = .outOfMemory ∧ ∃ l, requiredLength (opOf i) b.length = some l ∧ 0 < l)
    ∨ ((f = .oddLength ∨ f = .invalidDigit) ∧ opOf i = .hexdec) := by
  cases hprecheck : precheck (opOf i) b.length alloc with
  | some g =>
    obtain rfl : g = f := by simpa [commandResponse_of_precheck hprecheck] using h
    rcases precheck_eq_some hprecheck with ⟨hodd, hop⟩ | hmem
    · exact .inr ⟨.inl hodd, hop⟩
    · exact .inl hmem
  | none =>
    rcases commandResponse_of_precheck_none hprecheck with ⟨hop, herr⟩ | ⟨_, _, hok, -⟩
    · exact .inr ⟨.inr (by simpa [herr] using h.symm), hop⟩
    · simp [hok] at h

/-- A command completes with one response. -/
theorem Completes.response_unique {o : Host.Outcome State Fault Refusal} {s : State} {rsp rsp' : Response}
    (h : Completes o s rsp) (h' : Completes o s rsp') : rsp = rsp' := by
  obtain ⟨t, hnext, hrsp, -⟩ := h
  obtain ⟨t', hnext', hrsp', -⟩ := h'
  obtain rfl : t = t' := by simpa [hnext] using hnext'
  exact Option.some.inj (hrsp.symm.trans hrsp')

/-- What a command completes with in a ready state is the response of the command, over an input of LEN cells. -/
theorem commandResponse_of_completes {i : Instr} {s : State} {rsp : Response} (hready : s.Ready)
    (h : Completes (exec i s) s rsp) : commandResponse i s.input s.port.allocOk = rsp :=
  (exec_completes hready i).response_unique h

@[simp] theorem State.input_length (s : State) : s.input.length = s.port.len := Memory.cells_length _ _

/-! ### The response as the host reads it -/

@[simp] theorem Response.status_ok (out : List Byte) (r : Option Word) : (Response.ok out r).status = 0#2 := rfl
@[simp] theorem Response.status_err (f : Failure) : (Response.err f).status = f.code := rfl

/-- Every failure has a status of its own, none of them 0 (30 R56). -/
@[simp] theorem Failure.code_ne_zero (f : Failure) : f.code ≠ 0#2 := by cases f <;> decide

/-- STATUS is 0 exactly for a success (30 R56). -/
theorem Response.status_eq_zero (rsp : Response) : rsp.status = 0#2 ↔ ∃ out r, rsp = .ok out r := by
  cases rsp <;> simp

/-- STATUS[1] is the class bit: it is set exactly for a format error (30 R56). -/
theorem Response.status_class (rsp : Response) :
    rsp.status.getLsbD 1 = true ↔ rsp = .err .oddLength ∨ rsp = .err .invalidDigit := by
  cases rsp with
  | ok out r => simp
  | err f => cases f <;> simp [Failure.code]

/-- The fields of RSP: STATUS above the low bits, which are RFINAL where there is one (30 R55). -/
theorem Response.rsp_fields (rsp : Response) (low : Word) :
    (rsp.rsp low).extractLsb' 16 2 = rsp.status ∧ (rsp.rsp low).extractLsb' 0 16 = rsp.rfinal.getD low :=
  Laws.EncodeFields.fields_of_append _ _

/-! ### The start of a presented command -/

/-- In the command grain the step that starts a command runs its instruction (40 R78, log entry 1). -/
theorem step_runs_presented {s : State} (h : s.StartsCommand) (hgrain : s.grain = .command) :
    step s = exec s.presentedInstr s := by
  rw [step_start h, startEvent, hgrain]

/-- A word placed for the next step is presented to an idle block, to be run whole (log entry 16). -/
theorem withFetchWord_starts (s : State) (nbits w : Nat) :
    (s.withFetchWord nbits w).StartsCommand ∧ (s.withFetchWord nbits w).grain = .command
    ∧ (s.withFetchWord nbits w).port.cmd = BitVec.ofNat 18 w :=
  ⟨⟨rfl, rfl, rfl⟩, rfl, rfl⟩

end Sys2Proof.Machine
end

section
/-!
CLAIMS. The statements of spec 30 for this family.
-/
namespace Sys2Proof.Proofs.Encoding

open Sys2Proof.Machine

/-- Settles O1: each direction compares the two fields of the word. -/
theorem decodeEncodeAgree : Obligations.DecodeEncodeAgree :=
  ⟨decodeCmd_encodeCmd, encodeCmd_decodeCmd⟩

/-- Settles O2: a number that fits is the word of the instruction it decodes to. -/
theorem tableWordsDecode : Obligations.TableWordsDecode := by
  intro nbits w
  refine ⟨fun hfits => ⟨_, decodeTableWord_of_lt hfits nbits, ?_⟩, fun hwide => decodeTableWord_of_le hwide nbits⟩
  rw [encodeCmd_decodeCmd, BitVec.toNat_ofNat, Nat.mod_eq_of_lt hfits]

/-- Settles O3: each number is the value of its instruction's word. -/
theorem commandRangesSelectOperations : Obligations.CommandRangesSelectOperations := by
  intro v
  refine ⟨decodeCmd_ofNat ?_, decodeCmd_ofNat ?_, decodeCmd_ofNat ?_, decodeCmd_ofNat ?_⟩ <;>
    simp [Instr.opCode, Instr.r0Field]

/-- Settles O5: the codes by their table, and the operations that give them by the failures of a command. -/
theorem statusCodes : Obligations.StatusCodes := by
  refine ⟨fun _ _ => rfl, rfl, rfl, rfl, Response.status_eq_zero, Response.status_class, fun rsp hformat => ?_,
    fun i b alloc hformat => ?_, fun i b alloc hmem => ?_⟩
  · rcases rsp.status_class.mp hformat with rfl | rfl <;> simp [Failure.code]
  · have hfailed : ∃ f, commandResponse i b alloc = .err f ∧ f ≠ .outOfMemory := by
      rcases (Response.status_class _).mp hformat with h | h <;> exact ⟨_, h, by decide⟩
    obtain ⟨f, herr, hf⟩ := hfailed
    rcases commandResponse_err herr with ⟨hmem, -⟩ | ⟨-, hop⟩
    · exact absurd hmem hf
    · exact hop
  · cases hrsp : commandResponse i b alloc with
    | ok out r => simp [hrsp] at hmem
    | err f =>
      rcases commandResponse_err hrsp with ⟨-, hlen⟩ | ⟨rfl | rfl, -⟩
      · exact hlen
      all_goals simp [hrsp, Failure.code] at hmem

/-- Settles O6: the word is the two fields joined, and a command's Rfinal is that of a cipher's success. -/
theorem responseWordFields : Obligations.ResponseWordFields := by
  refine ⟨fun rsp low => ?_, fun i b alloc => ?_⟩
  · obtain ⟨hstatus, hlow⟩ := rsp.rsp_fields low
    exact ⟨hstatus, fun v hv => by rw [hlow, hv]; rfl, fun hnone => by rw [hlow, hnone]; rfl⟩
  · cases hrsp : commandResponse i b alloc with
    | ok out r => simpa [Response.rfinal] using (commandResponse_ok hrsp).rfinal
    | err f => simp [Response.rfinal]

/-- Settles O27: the response is the command's own, and its success is as long as the operation requires. -/
theorem outputLengthHandedOver : Obligations.OutputLengthHandedOver := by
  intro i s rsp hready hcompletes
  have hrsp := commandResponse_of_completes hready hcompletes
  cases rsp with
  | err f => exact ⟨fun hok => absurd hok f.code_ne_zero, fun _ => ⟨rfl, rfl, rfl⟩⟩
  | ok out r =>
    refine ⟨fun _ => ?_, fun hfailed => absurd rfl hfailed⟩
    have hlen : requiredLength (opOf i) s.port.len = some out.length := by
      simpa using (commandResponse_ok hrsp).length
    cases i with
    | decrypt r0 => exact (Option.some.inj hlen).symm
    | encrypt r0 => exact (Option.some.inj hlen).symm
    | hexenc r0 => exact (Option.some.inj hlen).symm
    | hexdec r0 =>
      obtain ⟨-, hhalf⟩ : s.port.len % 2 = 0 ∧ s.port.len / 2 = out.length := by
        simpa [requiredLength_hexdec] using hlen
      exact hhalf.symm

/-- Settles O4: each is the number of its instruction's word. -/
theorem specWordsDecode : Obligations.SpecWordsDecode :=
  ⟨decodeTableWord_of_toNat (by decide) 24, decodeTableWord_of_toNat (by decide) 24,
    decodeTableWord_of_toNat (by decide) 24, decodeTableWord_of_toNat (by decide) 24,
    decodeTableWord_of_toNat (by decide) 24, decodeTableWord_of_toNat (by decide) 24⟩

/-- Settles O7: the four hypotheses are those of the step that starts a command, in the command grain. -/
theorem stepRunsPresentedCommand : Obligations.StepRunsPresentedCommand :=
  fun _ hreset hidle hvalid hgrain => step_runs_presented ⟨hreset, hidle, hvalid⟩ hgrain

/-- Settles O8: the placed word is presented to an idle block, and it is the word the table decodes. -/
theorem fetchWordRunsNext : Obligations.FetchWordRunsNext := by
  intro s nbits w hfits
  obtain ⟨hstarts, hgrain, hcmd⟩ := withFetchWord_starts s nbits w
  refine ⟨_, decodeTableWord_of_lt hfits nbits, ?_⟩
  rw [step_runs_presented hstarts hgrain, State.presentedInstr, hcmd]

end Sys2Proof.Proofs.Encoding
end

section
/-!
SUPPORT. The events of one command, each as an equation: what ACCEPT latches from CMD, the outcome of the pre-checks
as conditions, and the response RESPOND forms.
-/
namespace Sys2Proof.Machine

/-! ### ACCEPT -/

/-- With its events taken one at a time, the step that starts a command is its ACCEPT (40 R70, log entry 1). -/
theorem step_accept {s : State} (h : s.StartsCommand) (hgrain : s.grain = .event) (hmisuse : s.port.misuse = none) :
    step s = .next (s.accept (opOf s.presentedInstr) (r0Of s.presentedInstr)) := by
  simp [step_start h, startEvent, hgrain, acceptEvent, hmisuse]

/-- OP is CMD[17:16] (40 R70). -/
theorem opOf_decodeCmd (w : CmdWord) : opOf (decodeCmd w) = Op.ofCode (cmdOp w) := by
  rw [← (decodeCmd_fields w).1]
  cases decodeCmd w <;> rfl

/-- CMD[17] tells the hex commands, which load no R0, from the cipher commands (30 R51, R52). -/
theorem r0Of_decodeCmd (w : CmdWord) :
    r0Of (decodeCmd w) = if w.getLsbD 17 then none else some (cmdR0 w) := by
  obtain ⟨hop, hr0⟩ := decodeCmd_fields w
  have hbit : w.getLsbD 17 = (decodeCmd w).opCode.getLsbD 1 := by simp [hop, cmdOp]
  rw [hbit, ← hr0]
  cases decodeCmd w <;> simp [r0Of, Instr.opCode, Instr.r0Field]

/-! ### RESPOND -/

/-- The pre-checks as conditions: an output is needed exactly where the input is not empty (40 R71 to R73). -/
theorem precheck_eq (op : Op) (n : Nat) (alloc : Bool) :
    precheck op n alloc =
      if op = .hexdec ∧ n % 2 = 1 then some .oddLength
      else if 0 < n ∧ alloc = false then some .outOfMemory else none := by
  cases op with
  | decrypt => simp [precheck, allocDenied]
  | encrypt => simp [precheck, allocDenied]
  | hexenc => simp [precheck, allocDenied]
  | hexdec =>
    rcases Nat.mod_two_eq_zero_or_one n with heven | hodd
    · have hneeded : 0 < n / 2 ↔ 0 < n := by omega
      simp [precheck, requiredLength_hexdec, allocDenied, heven, hneeded]
    · simp [precheck, requiredLength_hexdec, hodd]

/-- A text that passed the pre-checks of HEXDEC is of even length (40 R72). -/
theorem len_even_of_precheck_none {n : Nat} {alloc : Bool} (h : precheck .hexdec n alloc = none) : n % 2 = 0 := by
  rcases Nat.mod_two_eq_zero_or_one n with heven | hodd
  · exact heven
  · simp [precheck_eq, hodd] at h

/-- The response in the order of 40 R77: the failed pre-check, the bad digit, the success. -/
theorem formResponse_eq (s : State) :
    s.formResponse =
      if s.work.op = .hexdec ∧ s.work.len % 2 = 1 then .err .oddLength
      else if 0 < s.work.len ∧ s.work.alloc = false then .err .outOfMemory
      else if s.work.op = .hexdec ∧ s.work.bad = true then .err .invalidDigit
      else .ok (s.staged.cells s.work.olen)
        (if s.work.op = .decrypt ∨ s.work.op = .encrypt then some s.work.r else none) := by
  rw [State.formResponse, Work.precheck, precheck_eq]
  by_cases hodd : s.work.op = .hexdec ∧ s.work.len % 2 = 1
  · simp [hodd]
  by_cases hdenied : 0 < s.work.len ∧ s.work.alloc = false
  · simp [hodd, hdenied]
  simp only [if_neg hodd, if_neg hdenied]
  cases hop : s.work.op <;> simp [State.stagedCells]

end Sys2Proof.Machine
end

section
/-!
SUPPORT. The response a command in flight is due: the one value that ACCEPT fixes, every beat keeps and RESPOND
delivers. It is what the command's function (spec 41, 42, 43) makes of the cells not yet read, after what is staged.
-/
namespace Sys2Proof.Machine

/-! ### The cells not yet read -/

/-- The input cells the command in flight has not read, from I to LEN - 1. -/
def State.unread (s : State) : List Byte := s.ibuf.cellsFrom s.work.i (s.work.len - s.work.i)

/-- The text a HEXDEC command has not turned into bytes: the cells not yet read, after a character for the digit in HI
where the first of a pair was read (43 R128). -/
def State.pendingText (s : State) : List Byte :=
  if s.work.secondOfPair then encLut s.work.hi :: s.unread else s.unread

/-- A beat reads the first of the cells not yet read. -/
theorem unread_eq_cons {s : State} (h : s.work.i < s.work.len) : s.unread = s.loadCell :: (beat s).unread := by
  have hleft : s.work.len - s.work.i = s.work.len - (s.work.i + 1) + 1 := by omega
  simp [State.unread, State.loadCell, hleft, Memory.cellsFrom]

theorem unread_eq_nil {s : State} (h : s.work.i = s.work.len) : s.unread = [] := by
  simp [State.unread, h, Memory.cellsFrom]

/-- Staging a cell puts it after those staged before. -/
theorem stagedCells_stage {s : State} (hwf : s.staged.wf = true) (v : Byte) :
    (s.stage v).stagedCells = s.stagedCells ++ [v] :=
  Memory.cells_write_next _ _ v hwf

/-! ### Decoding by pairs -/

/-- The digit the encoder writes for a nibble is read back as that nibble. -/
@[simp] theorem decLut_encLut : ∀ n : Nibble, decLut (encLut n) = some n := by decide

/-- Of the first character of a text only its digit counts. -/
theorem hexDecodePairs_congr_head {c d : Byte} (h : decLut c = decLut d) (t : List Byte) :
    hexDecodePairs (c :: t) = hexDecodePairs (d :: t) := by
  cases t with
  | nil => rfl
  | cons l t => simp only [hexDecodePairs, h]

/-- A text that begins with a character that is no digit decodes to nothing. -/
theorem hexDecodePairs_bad_head {c : Byte} (h : decLut c = none) (t : List Byte) : hexDecodePairs (c :: t) = none := by
  cases t with
  | nil => rfl
  | cons l t => simp [hexDecodePairs, h]

/-- A pair whose second character is no digit decodes to nothing. -/
theorem hexDecodePairs_bad_second {l : Byte} (h : decLut l = none) (c : Byte) (t : List Byte) :
    hexDecodePairs (c :: l :: t) = none := by
  simp [hexDecodePairs, h]

/-! ### The response due -/

/-- The answer of HEXDEC to the rest of its text, after the bytes already staged. -/
def hexdecAnswer (bad : Bool) (done text : List Byte) : Response :=
  match bad, hexDecodePairs text with
  | false, some out => .ok (done ++ out) none
  | _, _ => .err .invalidDigit

/-- The response the command in flight is due. -/
def State.dueResponse (s : State) : Response :=
  match s.work.precheck, s.work.op with
  | some f, _ => .err f
  | none, .decrypt =>
    .ok (s.stagedCells ++ (decryptFrom s.work.r s.unread).1) (some (decryptFrom s.work.r s.unread).2)
  | none, .encrypt =>
    .ok (s.stagedCells ++ (encryptFrom s.work.r s.unread).1) (some (encryptFrom s.work.r s.unread).2)
  | none, .hexenc => .ok (s.stagedCells ++ hexEncodeCells s.unread) none
  | none, .hexdec => hexdecAnswer s.work.bad s.stagedCells s.pendingText

/-- A failed pre-check is the response due, from ACCEPT on (40 R75). -/
theorem dueResponse_of_precheck {s : State} {f : Failure} (h : s.work.precheck = some f) :
    s.dueResponse = .err f := by
  rw [State.dueResponse, h]

/-- ACCEPT makes the response of the command due. -/
theorem accept_dueResponse (s : State) (i : Instr) :
    (s.accept (opOf i) (r0Of i)).dueResponse = commandResponse i s.input s.port.allocOk := by
  have hunread : (s.accept (opOf i) (r0Of i)).unread = s.input := rfl
  have hstaged : (s.accept (opOf i) (r0Of i)).stagedCells = [] := rfl
  have hlatched : (s.accept (opOf i) (r0Of i)).work.precheck = precheck (opOf i) s.input.length s.port.allocOk := by
    simp [Work.precheck]
  cases hprecheck : precheck (opOf i) s.input.length s.port.allocOk with
  | some f =>
    rw [commandResponse_of_precheck hprecheck, dueResponse_of_precheck (hlatched.trans hprecheck)]
  | none =>
    rw [State.dueResponse, hlatched, hprecheck, hunread, hstaged]
    cases i with
    | decrypt r0 => exact (withBuffer_of_precheck_none (requiredLength_decrypt _) hprecheck _).symm
    | encrypt r0 => exact (withBuffer_of_precheck_none (requiredLength_encrypt _) hprecheck _).symm
    | hexenc r0 => exact (withBuffer_of_precheck_none (requiredLength_hexenc _) hprecheck _).symm
    | hexdec r0 =>
      have heven : s.input.length % 2 = 0 := len_even_of_precheck_none hprecheck
      have hlen : requiredLength .hexdec s.input.length = some (s.input.length / 2) := by
        rw [requiredLength_hexdec, if_pos heven]
      have htext : (s.accept .hexdec none).pendingText = s.input := rfl
      rw [commandResponse, hexdecResponse, if_neg (by omega), withBuffer_of_precheck_none hlen hprecheck]
      simp only [opOf_hexdec, r0Of, htext, hexdecAnswer, State.accept_work_bad]
      cases hexDecodePairs s.input <;> rfl

/-- The HEXDEC beat at the first character of a pair keeps the answer due: the digit it reads waits in HI, and a
character that is no digit settles the answer by BAD as it does by the decoder (43 R128, R129). -/
theorem beat_hexdecAnswer_even {s : State} (hop : s.work.op = .hexdec) (heven : s.work.i % 2 = 0)
    (hi : s.work.i < s.work.len) :
    hexdecAnswer (beat s).work.bad (beat s).stagedCells (beat s).pendingText
      = hexdecAnswer s.work.bad s.stagedCells s.pendingText := by
  have hphase : (s.work.i + 1) % 2 = 1 := by omega
  have hstaged : (beat s).stagedCells = s.stagedCells := by rw [beat_hexdec_even hop heven]; rfl
  have hhi : (beat s).work.hi = s.beatDigit := by rw [beat_hexdec_even hop heven]
  have hbefore : s.pendingText = s.loadCell :: (beat s).unread := by
    simp [State.pendingText, Work.secondOfPair, heven, unread_eq_cons hi]
  have hafter : (beat s).pendingText = encLut s.beatDigit :: (beat s).unread := by
    simp [State.pendingText, Work.secondOfPair, hphase, hhi]
  rw [hstaged, hbefore, hafter, beat_work_bad]
  cases hdigit : decLut s.loadCell with
  | none => simp [hexdecAnswer, hop, hexDecodePairs_bad_head hdigit]
  | some d =>
    have hsame : decLut (encLut s.beatDigit) = decLut s.loadCell := by simp [State.beatDigit, hdigit]
    simp [hexDecodePairs_congr_head hsame, hexdecAnswer]

/-- The HEXDEC beat at the second character of a pair keeps the answer due: the digit it reads and the one that waited
in HI make the next byte (43 R125, R128). -/
theorem beat_hexdecAnswer_odd {s : State} (hop : s.work.op = .hexdec) (hodd : s.work.i % 2 = 1)
    (hwf : s.staged.wf = true) (hi : s.work.i < s.work.len) :
    hexdecAnswer (beat s).work.bad (beat s).stagedCells (beat s).pendingText
      = hexdecAnswer s.work.bad s.stagedCells s.pendingText := by
  have hphase : (s.work.i + 1) % 2 = 0 := by omega
  have hstaged : (beat s).stagedCells = s.stagedCells ++ [joinNibbles s.work.hi s.beatDigit] := by
    rw [beat_hexdec_odd hop hodd]; exact stagedCells_stage hwf _
  have hbefore : s.pendingText = encLut s.work.hi :: s.loadCell :: (beat s).unread := by
    simp [State.pendingText, Work.secondOfPair, hodd, unread_eq_cons hi]
  have hafter : (beat s).pendingText = (beat s).unread := by simp [State.pendingText, Work.secondOfPair, hphase]
  rw [hstaged, hbefore, hafter, beat_work_bad]
  cases hdigit : decLut s.loadCell with
  | none => simp [hexdecAnswer, hop, hexDecodePairs_bad_second hdigit]
  | some d =>
    cases hrest : hexDecodePairs (beat s).unread <;> cases s.work.bad <;>
      simp [hexdecAnswer, hexDecodePairs, hdigit, hrest, State.beatDigit]

/-- A beat keeps the response due: the cell it reads goes from the cells not yet read to those staged (40 R74). -/
theorem beat_dueResponse {s : State} (hprecheck : s.work.precheck = none) (hwf : s.staged.wf = true)
    (hi : s.work.i < s.work.len) : (beat s).dueResponse = s.dueResponse := by
  have hread := unread_eq_cons hi
  cases hop : s.work.op with
  | decrypt =>
    have hr : (beat s).work.r = nextR s.work.r s.loadCell := by rw [beat_decrypt hop]
    have hstaged : (beat s).stagedCells = s.stagedCells ++ [combine s.work.r s.loadCell] := by
      rw [beat_decrypt hop]; exact stagedCells_stage hwf _
    simp [State.dueResponse, hprecheck, hop, hr, hread, hstaged, decryptFrom]
  | encrypt =>
    have hr : (beat s).work.r = nextR s.work.r (combine s.work.r s.loadCell) := by rw [beat_encrypt hop]
    have hstaged : (beat s).stagedCells = s.stagedCells ++ [combine s.work.r s.loadCell] := by
      rw [beat_encrypt hop]; exact stagedCells_stage hwf _
    simp [State.dueResponse, hprecheck, hop, hr, hread, hstaged, encryptFrom]
  | hexenc =>
    have hstaged : (beat s).stagedCells =
        s.stagedCells ++ [encLut (highNibble s.loadCell)] ++ [encLut (lowNibble s.loadCell)] := by
      rw [beat_hexenc hop, ← stagedCells_stage hwf]
      exact stagedCells_stage (s := s.stage _) (Memory.wf_write _ _ _ hwf) _
    simp [State.dueResponse, hprecheck, hop, hread, hstaged, hexEncodeCells]
  | hexdec =>
    have hanswer : hexdecAnswer (beat s).work.bad (beat s).stagedCells (beat s).pendingText
        = hexdecAnswer s.work.bad s.stagedCells s.pendingText := by
      rcases Nat.mod_two_eq_zero_or_one s.work.i with heven | hodd
      · exact beat_hexdecAnswer_even hop heven hi
      · exact beat_hexdecAnswer_odd hop hodd hwf hi
    simpa [State.dueResponse, hprecheck, hop] using hanswer

/-- RESPOND of a complete command forms the response due: no cell is left to read, and no digit waits (40 R76). -/
theorem formResponse_eq_dueResponse {s : State} (h : s.work.complete = true) : s.formResponse = s.dueResponse := by
  cases hprecheck : s.work.precheck with
  | some f => rw [dueResponse_of_precheck hprecheck, State.formResponse, hprecheck]
  | none =>
    have hi : s.work.i = s.work.len := by simpa [Work.complete, hprecheck] using h
    have hread := unread_eq_nil hi
    cases hop : s.work.op with
    | decrypt => simp [State.formResponse, State.dueResponse, hprecheck, hop, hread, decryptFrom]
    | encrypt => simp [State.formResponse, State.dueResponse, hprecheck, hop, hread, encryptFrom]
    | hexenc => simp [State.formResponse, State.dueResponse, hprecheck, hop, hread, hexEncodeCells]
    | hexdec =>
      have heven : s.work.len % 2 = 0 := by
        rw [Work.precheck, hop] at hprecheck
        exact len_even_of_precheck_none hprecheck
      have htext : s.pendingText = [] := by simp [State.pendingText, Work.secondOfPair, hi, heven, hread]
      cases hbad : s.work.bad <;>
        simp [State.formResponse, State.dueResponse, hprecheck, hop, htext, hbad, hexdecAnswer, hexDecodePairs]

end Sys2Proof.Machine
end

section
/-!
SUPPORT. The run of a command in flight: its beats, then RESPOND with the response due.
-/
namespace Sys2Proof.Machine

/-- The beats the command in flight has still to take: none where a pre-check failed (40 R75). -/
def Work.beatsLeft (w : Work) : Nat :=
  match w.precheck with
  | none => w.len - w.i
  | some _ => 0

theorem beatsLeft_le (w : Work) : w.beatsLeft ≤ w.len - w.i := by
  cases h : w.precheck <;> simp [Work.beatsLeft, h]

/-- After ACCEPT every beat of the command is left. -/
theorem accept_beatsLeft (s : State) (op : Op) (r0 : Option Word) :
    (s.accept op r0).work.beatsLeft = beatCount op s.port.len s.port.allocOk := rfl

/-- A command in flight the host keeps its duties to, with I within LEN and OLEN cells staged. -/
structure State.Underway (s : State) : Prop where
  inFlight : s.InFlight
  i_le_len : s.work.i ≤ s.work.len
  staged : s.staged.FilledTo s.work.olen

/-- The command ACCEPT puts in flight is under way. -/
theorem accept_underway {s : State} (hreset : s.resetPending = false) (op : Op) (r0 : Option Word) :
    (s.accept op r0).Underway :=
  ⟨⟨rfl, hreset, rfl⟩, Nat.zero_le _, rfl, rfl⟩

/-- A command in flight of a state that meets the invariant is under way. -/
theorem State.Inv.underway {s : State} (h : s.Inv) (hflight : s.InFlight) : s.Underway := by
  obtain ⟨-, hwf, -, hok, -⟩ := h
  obtain ⟨hi, -, -, hbelow, -⟩ := hok hflight.1
  exact ⟨hflight, hi, hwf, hbelow⟩

/-- With no beats left the command is complete (40 R76). -/
theorem State.Underway.complete {s : State} (h : s.Underway) (hleft : s.work.beatsLeft = 0) :
    s.work.complete = true := by
  cases hprecheck : s.work.precheck with
  | some f => simp [Work.complete, hprecheck]
  | none =>
    have hdone : s.work.len - s.work.i = 0 := by simpa [Work.beatsLeft, hprecheck] using hleft
    have hi : s.work.i = s.work.len := by have := h.i_le_len; omega
    simp [Work.complete, hi]

/-- With beats left a BEAT is enabled (40 R74). -/
theorem State.Underway.beatEnabled {s : State} (h : s.Underway) {n : Nat} (hleft : s.work.beatsLeft = n + 1) :
    s.BeatEnabled := by
  cases hprecheck : s.work.precheck with
  | some f => simp [Work.beatsLeft, hprecheck] at hleft
  | none =>
    have hcells : s.work.len - s.work.i = n + 1 := by simpa [Work.beatsLeft, hprecheck] using hleft
    exact ⟨h.inFlight, hprecheck, by omega⟩

/-- A beat leaves the command under way, with one beat less to take. -/
theorem beat_underway {s : State} (h : s.Underway) {n : Nat} (hleft : s.work.beatsLeft = n + 1) :
    (beat s).Underway ∧ (beat s).work.beatsLeft = n := by
  obtain ⟨-, hprecheck, hi⟩ := h.beatEnabled hleft
  have hflight : (beat s).InFlight := by rw [(beat_frame s).1]; exact h.inFlight
  have hcount : (beat s).work.i ≤ (beat s).work.len := by
    rw [beat_work_i, beat_work_len]
    exact hi
  refine ⟨⟨hflight, hcount, beat_filledTo h.staged⟩, ?_⟩
  simp only [Work.beatsLeft, beat_work_precheck, hprecheck, beat_work_len, beat_work_i] at hleft ⊢
  omega

/-- Delivering leaves no trace of the beats before it: they changed what the delivery drops. -/
theorem deliver_beat (s : State) (rsp : Response) : (beat s).deliver rsp = s.deliver rsp := by
  rw [(beat_frame s).1]
  rfl

/-- The beats left and a RESPOND deliver the response due (40 R75 to R77). -/
theorem State.Underway.runSteps_delivers {s : State} (h : s.Underway) :
    runSteps (s.work.beatsLeft + 1) s = .next (s.deliver s.dueResponse) := by
  induction hleft : s.work.beatsLeft generalizing s with
  | zero =>
    have hcomplete := h.complete hleft
    rw [runSteps_succ_next 0 (step_respond h.inFlight hcomplete), runSteps_zero, respond,
      formResponse_eq_dueResponse hcomplete]
  | succ n ih =>
    obtain ⟨-, hprecheck, hi⟩ := h.beatEnabled hleft
    obtain ⟨hbeat, hleft'⟩ := beat_underway h hleft
    rw [runSteps_succ_next _ (step_of_beatEnabled (h.beatEnabled hleft)), ih hbeat hleft',
      beat_dueResponse hprecheck h.staged.1 hi, deliver_beat]

/-- Until its beats are taken a command stays in flight, with no response to it. -/
theorem State.Underway.runSteps_busy {s : State} (h : s.Underway) {k : Nat} (hk : k ≤ s.work.beatsLeft) :
    ∃ t, runSteps k s = .next t ∧ t.busy = true ∧ t.response = s.response := by
  induction k generalizing s with
  | zero => exact ⟨s, runSteps_zero s, h.inFlight.1, rfl⟩
  | succ k ih =>
    obtain ⟨n, hleft⟩ := Nat.exists_eq_add_of_le' (Nat.lt_of_lt_of_le k.succ_pos hk)
    obtain ⟨hbeat, hleft'⟩ := beat_underway h hleft
    have hresponse : (beat s).response = s.response := by rw [(beat_frame s).1]
    rw [runSteps_succ_next k (step_of_beatEnabled (h.beatEnabled hleft)), ← hresponse]
    exact ih hbeat (by omega)

end Sys2Proof.Machine
end

section
/-!
CLAIMS. The statements of spec 40 for this family.
-/
namespace Sys2Proof.Proofs.CommandExecution

open Sys2Proof.Machine

/-- Settles O57: ACCEPT makes the response of the command due, and the beats and RESPOND deliver what is due. -/
theorem eventsRefineCommand : Obligations.EventsRefineCommand := by
  intro s hready hreset hvalid hgrain
  have haccept := step_accept ⟨hreset, hready.1, hvalid⟩ hgrain hready.2
  have hunderway := accept_underway hreset (opOf s.presentedInstr) (r0Of s.presentedInstr)
  refine ⟨?_, fun k hpos hk => ?_⟩
  · have hrun := hunderway.runSteps_delivers
    rw [accept_beatsLeft, accept_dueResponse] at hrun
    rw [runSteps_succ_next _ haccept, hrun, exec_eq_runCommand, runCommand_ready hready]
    rfl
  · obtain ⟨n, rfl⟩ := Nat.exists_eq_add_of_le' hpos
    rw [runSteps_succ_next n haccept]
    exact hunderway.runSteps_busy (Nat.le_of_succ_le_succ hk)

/-- Settles O58: the beats left are at most LEN - I, and after them comes RESPOND. -/
theorem busyCommandAnswered : Obligations.BusyCommandAnswered := by
  intro s hinv hflight
  exact ⟨_, _, Nat.succ_le_succ (beatsLeft_le s.work), (hinv.underway hflight).runSteps_delivers, rfl, rfl⟩

/-- Settles O9: ACCEPT writes the registers, and CMD gives it OP and, for a cipher command, R0. -/
theorem acceptLatchesCommand : Obligations.AcceptLatchesCommand := by
  intro s hreset hready hvalid hgrain
  refine ⟨_, step_accept ⟨hreset, hready.1, hvalid⟩ hgrain hready.2, ?_, rfl, rfl, rfl, rfl, rfl, rfl, hreset⟩
  rw [State.presentedInstr, opOf_decodeCmd, r0Of_decodeCmd]
  cases hhex : s.port.cmd.getLsbD 17 <;> rfl

/-- Settles O10: the step is the beat, which stages one cell. -/
theorem decryptBeatEffect : Obligations.DecryptBeatEffect := by
  intro s hbeat hwf hop
  rw [step_of_beatEnabled hbeat, beat_decrypt hop]
  exact ⟨_, rfl, rfl, rfl, fun a => Memory.read_write _ _ _ a hwf⟩

/-- Settles O11: the step is the beat, which stages one cell. -/
theorem encryptBeatEffect : Obligations.EncryptBeatEffect := by
  intro s hbeat hwf hop
  rw [step_of_beatEnabled hbeat, beat_encrypt hop]
  exact ⟨_, rfl, rfl, rfl, fun a => Memory.read_write _ _ _ a hwf⟩

/-- Settles O12: the step is the beat, which stages two cells, the second above the first. -/
theorem hexencBeatEffect : Obligations.HexencBeatEffect := by
  intro s hbeat hwf hop
  rw [step_of_beatEnabled hbeat, beat_hexenc hop]
  refine ⟨_, rfl, rfl, rfl, fun a => ?_⟩
  simp only [Memory.read_write _ _ _ _ (Memory.wf_write _ _ _ hwf), Memory.read_write _ _ _ _ hwf]
  by_cases hfirst : a = s.work.olen <;> simp [hfirst, State.loadCell]

/-- Settles O14: a complete command responds, and the response it forms follows the rule's order. -/
theorem respondFormsResponse : Obligations.RespondFormsResponse := by
  intro s hflight hcomplete
  exact ⟨_, _, step_respond hflight hcomplete, rfl, rfl, rfl, rfl, rfl, rfl, hflight.2.1, formResponse_eq s⟩

/-- Settles O17: a whole command waits, and the event of the command in flight is a RESPOND, after which the block is
idle, or a beat, which keeps the port and the latches. -/
theorem busyHoldsPresentedCommand : Obligations.BusyHoldsPresentedCommand := by
  intro s hbusy hreset
  refine ⟨fun i => by simp [exec_eq_runCommand, runCommand, hbusy], fun t hstep => ?_⟩
  rw [step_busy hbusy hreset] at hstep
  rcases busyEvent_next hstep with ⟨-, ⟨-, rfl⟩ | ⟨-, -, rfl⟩⟩
  · exact ⟨respond_port s, fun hstill => by simp [respond] at hstill⟩
  · exact ⟨beat_port s, fun _ => ⟨beat_work_op s, beat_work_len s, beat_work_alloc s⟩⟩

/-- Settles O22: an empty input needs no output buffer, and each operation's function leaves nothing of it. -/
theorem emptyInputSucceeds : Obligations.EmptyInputSucceeds := by
  intro i s hready hlen
  have hempty : s.input = [] := by rw [State.input, hlen, Memory.cells_zero]
  have hcompletes := exec_completes hready i
  rw [hempty] at hcompletes
  cases i <;> exact hcompletes

/-- Settles O23: the response is the command's own. -/
theorem everyCommandAnswered : Obligations.EveryCommandAnswered :=
  fun i _ hready => ⟨_, exec_completes hready i⟩

end Sys2Proof.Proofs.CommandExecution
end

section
/-!
SUPPORT. The arithmetic of the recurrence: its value, its 16-bit wrapping form and its inverse (41 R90, R96, R101).
-/
namespace Sys2Proof.Machine

theorem nextR_toNat (r : Word) (fb : Byte) :
    (nextR r fb).toNat = ((fb.toNat + r.toNat) * 52845 + 22719) % 65536 := by
  simp only [nextR, BitVec.toNat_ofNat, Config.c1, Config.c2]
  rw [Nat.add_comm, Nat.mul_comm]

theorem nextR_eq_wrapping (r : Word) (fb : Byte) :
    nextR r fb = (fb.setWidth 16 + r) * 52845#16 + 22719#16 := by
  apply BitVec.eq_of_toNat_eq
  rw [nextR_toNat]
  simp [BitVec.toNat_add, BitVec.toNat_mul]

/-- The register value before one step of the recurrence: the increment and the feedback byte taken away again, and
27493 the inverse of the multiplier modulo 65536 (41 R101). -/
def prevR (v : Word) (fb : Byte) : Word := (v - 22719#16) * 27493#16 - fb.setWidth 16

theorem multiplier_mul_inverse : 52845#16 * 27493#16 = 1#16 := by decide

@[simp] theorem prevR_nextR (r : Word) (fb : Byte) : prevR (nextR r fb) fb = r := by
  rw [nextR_eq_wrapping, prevR, BitVec.add_sub_cancel, BitVec.mul_assoc, multiplier_mul_inverse, BitVec.mul_one,
    BitVec.add_comm, BitVec.add_sub_cancel]

@[simp] theorem nextR_prevR (v : Word) (fb : Byte) : nextR (prevR v fb) fb = v := by
  rw [nextR_eq_wrapping, prevR, BitVec.add_comm (fb.setWidth 16), BitVec.sub_add_cancel, BitVec.mul_assoc,
    BitVec.mul_comm 27493#16, multiplier_mul_inverse, BitVec.mul_one, BitVec.sub_add_cancel]

end Sys2Proof.Machine
end

section
/-!
SUPPORT. The key register along a feedback text, and the two directions of the cipher over it: DECRYPT undoes ENCRYPT
and the other way round, and each runs over a joined input as over its parts (41 R92 to R94, R98, R100).
-/
namespace Sys2Proof.Machine

/-- The key register after the recurrence has taken in the first `k` of the feedback bytes `fbs` (41 R92). -/
def keyAt (r : Word) (fbs : List Byte) (k : Nat) : Word := (fbs.take k).foldl nextR r

@[simp] theorem keyAt_zero (r : Word) (fbs : List Byte) : keyAt r fbs 0 = r := rfl

theorem keyAt_succ (r : Word) {fbs : List Byte} {k : Nat} {fb : Byte} (h : fbs[k]? = some fb) :
    keyAt r fbs (k + 1) = nextR (keyAt r fbs k) fb := by
  simp [keyAt, List.take_add_one, h]

/-- The combiner with the same register value undoes itself (41 R91). -/
@[simp] theorem combine_combine (r : Word) (b : Byte) : combine r (combine r b) = b := by
  rw [combine, combine, BitVec.xor_assoc, BitVec.xor_self, BitVec.xor_zero]

/-- The output of DECRYPT cell by cell, with the register after the input cells before it (41 R93). -/
theorem decryptFrom_getElem? (r : Word) (b : List Byte) (k : Nat) :
    (decryptFrom r b).1[k]? = b[k]?.map (combine (keyAt r b k)) := by
  induction b generalizing r k with
  | nil => rfl
  | cons c cs ih =>
    cases k with
    | zero => rfl
    | succ k => exact ih (nextR r c) k

/-- The Rfinal of DECRYPT is the register after the whole input (41 R93). -/
theorem decryptFrom_rfinal (r : Word) (b : List Byte) : (decryptFrom r b).2 = keyAt r b b.length := by
  induction b generalizing r with
  | nil => rfl
  | cons c cs ih => exact ih (nextR r c)

/-- DECRYPT undoes ENCRYPT: both feed back the same bytes, the ciphertext (41 R98). -/
theorem decryptFrom_encryptFrom (r : Word) (b : List Byte) :
    decryptFrom r (encryptFrom r b).1 = (b, (encryptFrom r b).2) := by
  induction b generalizing r with
  | nil => rfl
  | cons p ps ih => simp [encryptFrom, decryptFrom, ih]

/-- ENCRYPT undoes DECRYPT (41 R98). -/
theorem encryptFrom_decryptFrom (r : Word) (b : List Byte) :
    encryptFrom r (decryptFrom r b).1 = (b, (decryptFrom r b).2) := by
  induction b generalizing r with
  | nil => rfl
  | cons c cs ih => simp [encryptFrom, decryptFrom, ih]

/-- The output of ENCRYPT cell by cell, with the register after the output cells before it: the DECRYPT of that output
gives the input cells (41 R94). -/
theorem encryptFrom_getElem? (r : Word) (b : List Byte) (k : Nat) :
    (encryptFrom r b).1[k]? = b[k]?.map (combine (keyAt r (encryptFrom r b).1 k)) := by
  have hdec := decryptFrom_getElem? r (encryptFrom r b).1 k
  rw [decryptFrom_encryptFrom] at hdec
  rw [hdec, Option.map_map]
  simp [Function.comp_def]

/-- The Rfinal of ENCRYPT is the register after the whole output (41 R94). -/
theorem encryptFrom_rfinal (r : Word) (b : List Byte) : (encryptFrom r b).2 = keyAt r (encryptFrom r b).1 b.length := by
  have hdec := decryptFrom_rfinal r (encryptFrom r b).1
  rwa [decryptFrom_encryptFrom, encryptFrom_length] at hdec

/-- A run of the cipher over buffers can be cut: over a joined input it is the run over the first part, then over the
second from the register the first left (41 R100). -/
structure Chunkable (run : Word → List Byte → List Byte × Word) : Prop where
  nil (r : Word) : run r [] = ([], r)
  append (r : Word) (a b : List Byte) :
    run r (a ++ b) = ((run r a).1 ++ (run (run r a).2 b).1, (run (run r a).2 b).2)

theorem decryptFrom_chunkable : Chunkable decryptFrom where
  nil _ := rfl
  append r a b := by
    induction a generalizing r with
    | nil => rfl
    | cons c cs ih => simp [decryptFrom, ih]

theorem encryptFrom_chunkable : Chunkable encryptFrom where
  nil _ := rfl
  append r a b := by
    induction a generalizing r with
    | nil => rfl
    | cons p ps ih => simp [encryptFrom, ih]

end Sys2Proof.Machine
end

section
/-!
SUPPORT. The responses of the cipher commands in terms of `decryptFrom` and `encryptFrom`, and a stream of them.
-/
namespace Sys2Proof.Machine

/-- A response that asked for a buffer and is a success is the outcome behind the buffer. -/
theorem withBuffer_eq_ok {l : Nat} {alloc : Bool} {rsp : Response} {out : List Byte} {rfinal : Option Word}
    (h : withBuffer l alloc rsp = .ok out rfinal) : rsp = .ok out rfinal := by
  unfold withBuffer at h
  split at h
  · cases h
  · exact h

/-- The buffer of a granted command, one cell per input cell, is not denied (40 R73). -/
theorem allocDenied_of_granted {s : State} (h : s.Granted) : allocDenied s.input.length s.port.allocOk = false := by
  rw [State.input_length]
  rcases h with hlen | halloc
  · rw [hlen, allocDenied_empty]
  · rw [halloc, allocDenied_granted]

theorem commandResponse_decrypt (r0 : Word) {b : List Byte} {alloc : Bool} (h : allocDenied b.length alloc = false) :
    commandResponse (.decrypt r0) b alloc = .ok (decryptFrom r0 b).1 (some (decryptFrom r0 b).2) := by
  simp [commandResponse, decryptResponse, withBuffer, h]

theorem commandResponse_encrypt (r0 : Word) {b : List Byte} {alloc : Bool} (h : allocDenied b.length alloc = false) :
    commandResponse (.encrypt r0) b alloc = .ok (encryptFrom r0 b).1 (some (encryptFrom r0 b).2) := by
  simp [commandResponse, encryptResponse, withBuffer, h]

theorem exec_decrypt_completes {s : State} (hready : s.Ready) (hgranted : s.Granted) (r0 : Word) :
    Completes (exec (.decrypt r0) s) s (.ok (decryptFrom r0 s.input).1 (some (decryptFrom r0 s.input).2)) :=
  commandResponse_decrypt r0 (allocDenied_of_granted hgranted) ▸ exec_completes hready (.decrypt r0)

theorem exec_encrypt_completes {s : State} (hready : s.Ready) (hgranted : s.Granted) (r0 : Word) :
    Completes (exec (.encrypt r0) s) s (.ok (encryptFrom r0 s.input).1 (some (encryptFrom r0 s.input).2)) :=
  commandResponse_encrypt r0 (allocDenied_of_granted hgranted) ▸ exec_completes hready (.encrypt r0)

theorem decryptFrom_of_completes {r0 rf : Word} {s : State} {out : List Byte} (hready : s.Ready)
    (h : Completes (exec (.decrypt r0) s) s (.ok out (some rf))) : decryptFrom r0 s.input = (out, rf) := by
  simpa [Prod.ext_iff] using withBuffer_eq_ok (commandResponse_of_completes hready h)

theorem encryptFrom_of_completes {r0 rf : Word} {s : State} {out : List Byte} (hready : s.Ready)
    (h : Completes (exec (.encrypt r0) s) s (.ok out (some rf))) : encryptFrom r0 s.input = (out, rf) := by
  simpa [Prod.ext_iff] using withBuffer_eq_ok (commandResponse_of_completes hready h)

/-- Commands that each answer a run that can be cut, threaded over the parts of a stream, give the run over the whole
stream (41 R100, 70 R178). -/
theorem threadParts_eq_run {command : Word → Instr} {run : Word → List Byte → List Byte × Word}
    (hrun : Chunkable run)
    (hcommand : ∀ r b, commandResponse (command r) b true = .ok (run r b).1 (some (run r b).2))
    (r : Word) (parts : List (List Byte)) : threadParts command r parts = some (run r parts.flatten) := by
  induction parts generalizing r with
  | nil => rw [List.flatten_nil, hrun.nil, threadParts]
  | cons p ps ih => simp [threadParts, hcommand, ih, hrun.append]

end Sys2Proof.Machine
end

section
/-!
CLAIMS. The statements of spec 41 for this family.
-/
namespace Sys2Proof.Proofs.Cipher

open Sys2Proof.Machine

/-- Settles O18: the register sequence is the recurrence over the input cells. -/
theorem decryptResult : Obligations.DecryptResult := by
  intro r0 s hready hgranted
  refine ⟨(decryptFrom r0 s.input).1, keyAt r0 s.input, ?_, by simp, rfl, fun k hk => ?_⟩
  · rw [← State.input_length, ← decryptFrom_rfinal]
    exact exec_decrypt_completes hready hgranted r0
  · have hin : s.input[k]? = some (s.port.input.read k) := Memory.cells_getElem _ _ _ hk
    exact ⟨by rw [decryptFrom_getElem?, hin]; rfl, keyAt_succ r0 hin⟩

/-- Settles O19: the register sequence is the recurrence over the output cells. -/
theorem encryptResult : Obligations.EncryptResult := by
  intro r0 s hready hgranted
  refine ⟨(encryptFrom r0 s.input).1, keyAt r0 (encryptFrom r0 s.input).1, ?_, by simp, rfl, fun k hk => ?_⟩
  · rw [← State.input_length, ← encryptFrom_rfinal]
    exact exec_encrypt_completes hready hgranted r0
  · have hin : s.input[k]? = some (s.port.input.read k) := Memory.cells_getElem _ _ _ hk
    have hout := encryptFrom_getElem? r0 s.input k
    rw [hin, Option.map_some] at hout
    exact ⟨_, rfl, hout, keyAt_succ r0 hout⟩

/-- Settles O36: `prevR` undoes the recurrence on both sides; the inverse formula is arithmetic on the value. -/
theorem recurrenceBijective : Obligations.RecurrenceBijective := by
  refine ⟨by decide, fun fb v => ⟨prevR v fb, nextR_prevR v fb, ?_⟩, fun fb r => ?_⟩
  · rintro r' rfl
    exact (prevR_nextR r' fb).symm
  · have hr := r.isLt
    rw [nextR_toNat]
    omega

/-- Settles O37: each direction undoes the other over the buffers, and the second command is granted its buffer. -/
theorem cipherRoundTrip : Obligations.CipherRoundTrip := by
  rintro r0 s u out rf hs hu hgranted rfl
  constructor
  · intro hencrypt
    have hinverse := decryptFrom_encryptFrom r0 s.input
    rw [encryptFrom_of_completes hs hencrypt] at hinverse
    have hdecrypt := exec_decrypt_completes hu hgranted r0
    rwa [hinverse] at hdecrypt
  · intro hdecrypt
    have hinverse := encryptFrom_decryptFrom r0 s.input
    rw [decryptFrom_of_completes hs hdecrypt] at hinverse
    have hencrypt := exec_encrypt_completes hu hgranted r0
    rwa [hinverse] at hencrypt

/-- Settles O38: each part takes up the run where the part before left the register. -/
theorem chunkedEquivalence : Obligations.ChunkedEquivalence := by
  intro r0 parts
  have hdecrypt r b := commandResponse_decrypt r (allocDenied_granted (List.length b))
  have hencrypt r b := commandResponse_encrypt r (allocDenied_granted (List.length b))
  exact ⟨⟨_, _, threadParts_eq_run decryptFrom_chunkable hdecrypt r0 parts, hdecrypt r0 _⟩,
    ⟨_, _, threadParts_eq_run encryptFrom_chunkable hencrypt r0 parts, hencrypt r0 _⟩⟩

/-- Settles O33: the model's product with the constants on the left, put in the rule's order. -/
theorem recurrenceValue : Obligations.RecurrenceValue := nextR_toNat

/-- Settles O35: the bound is the value at the largest register and feedback byte. -/
theorem recurrenceWrapsAnywhere : Obligations.RecurrenceWrapsAnywhere := by
  intro r fb
  have hr := r.isLt
  have hfb := fb.isLt
  exact ⟨nextR_eq_wrapping r fb, by omega, by decide⟩

end Sys2Proof.Proofs.Cipher
end

section
/-!
SUPPORT. The hex encoder: its table, its text character by character, and the decoder that reads the text back
(42 R110 to R115).
-/
namespace Sys2Proof.Machine

/-! ### The tables -/

theorem encLut_toNat :
    ∀ n : Nibble, (encLut n).toNat = if n.toNat ≤ 9 then 0x30 + n.toNat else 0x41 + (n.toNat - 10) := by
  decide

/-- The table writes characters of the alphabet alone (42 R111). -/
theorem encLut_mem_hexAlphabet : ∀ n : Nibble, encLut n ∈ Config.hexAlphabet := by decide

/-- The alphabet holds no small letter (42 R113). -/
theorem foldUpper_of_mem_hexAlphabet : ∀ c ∈ Config.hexAlphabet, foldUpper c = c := by decide

/-- The digits of the decoder's table, every cell value looked up (43 R121). -/
theorem decLut_eq : ∀ c : Byte, decLut c =
    if 0x30 ≤ c.toNat ∧ c.toNat ≤ 0x39 then some (BitVec.ofNat 4 (c.toNat - 0x30))
    else if 0x41 ≤ c.toNat ∧ c.toNat ≤ 0x46 then some (BitVec.ofNat 4 (c.toNat - 0x41 + 10))
    else if 0x61 ≤ c.toNat ∧ c.toNat ≤ 0x66 then some (BitVec.ofNat 4 (c.toNat - 0x61 + 10))
    else none := by
  decide

/-- A byte is its two nibbles joined (20 R36). -/
@[simp] theorem joinNibbles_nibbles (b : Byte) : joinNibbles (highNibble b) (lowNibble b) = b :=
  (BitVec.extractLsb'_append_extractLsb'_eq_extractLsb' rfl).trans BitVec.extractLsb'_eq_self

/-! ### The text of a buffer -/

/-- The characters of byte `k` stand at 2k and 2k + 1, the high nibble's first (42 R110). -/
theorem hexEncodeCells_getElem? (b : List Byte) (k : Nat) :
    (hexEncodeCells b)[2 * k]? = b[k]?.map (fun v => encLut (highNibble v))
    ∧ (hexEncodeCells b)[2 * k + 1]? = b[k]?.map (fun v => encLut (lowNibble v)) := by
  induction b generalizing k with
  | nil => exact ⟨rfl, rfl⟩
  | cons v vs ih =>
    cases k with
    | zero => exact ⟨rfl, rfl⟩
    | succ k => exact ih k

/-- Every character of the text is the table's for some nibble (42 R112). -/
theorem exists_encLut_of_mem_hexEncodeCells {b : List Byte} {c : Byte} (h : c ∈ hexEncodeCells b) :
    ∃ n, encLut n = c := by
  induction b with
  | nil => cases h
  | cons v vs ih =>
    simp only [hexEncodeCells, List.mem_cons] at h
    rcases h with rfl | rfl | hrest
    · exact ⟨_, rfl⟩
    · exact ⟨_, rfl⟩
    · exact ih hrest

/-- Each byte is encoded on its own (42 R115). -/
theorem hexEncodeCells_append (b c : List Byte) :
    hexEncodeCells (b ++ c) = hexEncodeCells b ++ hexEncodeCells c := by
  induction b with
  | nil => rfl
  | cons v vs ih => simp [hexEncodeCells, ih]

/-- The decoder reads back the buffer a text was encoded from (42 R114). -/
@[simp] theorem hexDecodePairs_hexEncodeCells (b : List Byte) : hexDecodePairs (hexEncodeCells b) = some b := by
  induction b with
  | nil => rfl
  | cons v vs ih => simp [hexEncodeCells, hexDecodePairs, ih]

theorem hexEncodeCells_injective : Function.Injective hexEncodeCells := fun b c h =>
  Option.some.inj (by rw [← hexDecodePairs_hexEncodeCells b, h, hexDecodePairs_hexEncodeCells])

/-! ### The response of HEXENC -/

/-- Two cells per input cell are denied exactly when one cell per input cell would be (40 R73). -/
@[simp] theorem allocDenied_two_mul (n : Nat) (alloc : Bool) : allocDenied (2 * n) alloc = allocDenied n alloc := by
  simp [allocDenied]

theorem commandResponse_hexenc (x : Word) {b : List Byte} {alloc : Bool} (h : allocDenied b.length alloc = false) :
    commandResponse (.hexenc x) b alloc = .ok (hexEncodeCells b) none := by
  simp [commandResponse, hexencResponse, withBuffer, h]

/-- With the allocator granting, HEXENC answers its text whatever the buffer (42 R110). -/
@[simp] theorem commandResponse_hexenc_granted (x : Word) (b : List Byte) :
    commandResponse (.hexenc x) b true = .ok (hexEncodeCells b) none :=
  commandResponse_hexenc x (allocDenied_granted _)

theorem exec_hexenc_completes {s : State} (hready : s.Ready) (hgranted : s.Granted) (x : Word) :
    Completes (exec (.hexenc x) s) s (.ok (hexEncodeCells s.input) none) :=
  commandResponse_hexenc x (allocDenied_of_granted hgranted) ▸ exec_completes hready (.hexenc x)

theorem hexEncodeCells_of_completes {x : Word} {s : State} {out : List Byte} {rfinal : Option Word}
    (hready : s.Ready) (h : Completes (exec (.hexenc x) s) s (.ok out rfinal)) : hexEncodeCells s.input = out :=
  (Response.ok.inj (withBuffer_eq_ok (commandResponse_of_completes hready h))).1

end Sys2Proof.Machine
end

section
/-!
CLAIMS. The statements of spec 42 for this family.
-/
namespace Sys2Proof.Proofs.HexEncoder

open Sys2Proof.Machine

/-- Settles O20: the response is the text of the input cells, and its characters stand where each byte puts them. -/
theorem hexencResult : Obligations.HexencResult := by
  intro x s hready hgranted
  refine ⟨hexEncodeCells s.input, exec_hexenc_completes hready hgranted x, by simp, fun k hk => ?_⟩
  have hin : s.input[k]? = some (s.port.input.read k) := Memory.cells_getElem _ _ _ hk
  simpa only [hin, Option.map_some] using hexEncodeCells_getElem? s.input k

/-- Settles O40: a failure hands no cell over, and every cell of a success is one the table writes. -/
theorem hexencAlwaysUppercase : Obligations.HexencAlwaysUppercase := by
  intro x s rsp hready hcompletes c hc
  cases rsp with
  | err f => cases hc
  | ok out rfinal =>
    rw [Response.out, ← hexEncodeCells_of_completes hready hcompletes] at hc
    obtain ⟨n, rfl⟩ := exists_encLut_of_mem_hexEncodeCells hc
    have hmem := encLut_mem_hexAlphabet n
    exact ⟨hmem, foldUpper_of_mem_hexAlphabet _ hmem⟩

/-- Settles O42: the decoder reads the buffer back from the text. -/
theorem hexencInjective : Obligations.HexencInjective := by
  intro x y b c hrsp
  rw [commandResponse_hexenc_granted, commandResponse_hexenc_granted] at hrsp
  exact hexEncodeCells_injective (Response.ok.inj hrsp).1

/-- Settles O43: the text of the joined buffers is the joined texts. -/
theorem hexencConcatenation : Obligations.HexencConcatenation := by
  intro x b c
  refine ⟨_, _, commandResponse_hexenc_granted x b, commandResponse_hexenc_granted x c, ?_⟩
  rw [commandResponse_hexenc_granted, hexEncodeCells_append]

/-- Settles O39: both tables are finite, and each entry is looked up. -/
theorem hexTablesClosedForm : Obligations.HexTablesClosedForm := ⟨encLut_toNat, decLut_eq⟩

end Sys2Proof.Proofs.HexEncoder
end

section
/-!
SUPPORT. The hex decoder: its table and the folding to capitals, the bytes of a text pair by pair, the encoder that
writes the text again, and the response of HEXDEC (43 R120 to R125, R130, R131).
-/
namespace Sys2Proof.Machine

/-! ### Digits and their characters -/

/-- The byte of two digits, `(h << 4) | l` (43 R125). -/
theorem joinNibbles_eq_shift_or (h l : Nibble) : joinNibbles h l = (h.setWidth 8 <<< 4) ||| l.setWidth 8 := by
  rw [joinNibbles, BitVec.append_def, BitVec.shiftLeftZeroExtend_eq, BitVec.setWidth'_eq]

@[simp] theorem highNibble_joinNibbles (h l : Nibble) : highNibble (joinNibbles h l) = h :=
  BitVec.extractLsb'_append_eq_left

@[simp] theorem lowNibble_joinNibbles (h l : Nibble) : lowNibble (joinNibbles h l) = l :=
  BitVec.extractLsb'_append_eq_right

@[simp] theorem foldUpper_foldUpper : ∀ c : Byte, foldUpper (foldUpper c) = foldUpper c := by decide

/-- The table is blind to case (43 R122). -/
@[simp] theorem decLut_foldUpper (c : Byte) : decLut (foldUpper c) = decLut c := by
  simp [decLut]

/-- The encoder writes a digit as the capital of the character it was read from (43 R131). -/
theorem encLut_of_decLut_eq_some : ∀ {c : Byte} {d : Nibble}, decLut c = some d → encLut d = foldUpper c := by
  decide

/-- Folding moves the small letters among the digits and no other of them (43 R122). -/
theorem foldUpper_eq_self_iff_of_digit :
    ∀ c : Byte, (decLut c).isSome = true → (foldUpper c = c ↔ ¬ (0x61 ≤ c.toNat ∧ c.toNat ≤ 0x66)) := by
  decide

/-! ### The bytes of a text -/

/-- A text decodes exactly when it is of even length and every character of it is a digit (43 R120, R124). -/
theorem exists_hexDecodePairs_eq_some :
    ∀ {t : List Byte}, (∃ out, hexDecodePairs t = some out) ↔
      t.length % 2 = 0 ∧ ∀ c ∈ t, (decLut c).isSome = true
  | [] => by simp [hexDecodePairs]
  | [_] => by simp [hexDecodePairs]
  | h :: l :: t => by
    have ih : (∃ out, hexDecodePairs t = some out) ↔ t.length % 2 = 0 ∧ ∀ c ∈ t, (decLut c).isSome = true :=
      exists_hexDecodePairs_eq_some
    have hparity : (h :: l :: t).length % 2 = t.length % 2 := Nat.add_mod_right _ 2
    rw [hparity, List.forall_mem_cons, List.forall_mem_cons]
    constructor
    · rintro ⟨_, hpairs⟩
      obtain ⟨vh, vl, rest, hh, hl, hrest, -⟩ := hexDecodePairs_cons_cons_eq_some.mp hpairs
      obtain ⟨heven, hdigits⟩ := ih.mp ⟨rest, hrest⟩
      exact ⟨heven, Option.isSome_of_eq_some hh, Option.isSome_of_eq_some hl, hdigits⟩
    · rintro ⟨heven, hh, hl, hdigits⟩
      obtain ⟨vh, hvh⟩ := Option.isSome_iff_exists.mp hh
      obtain ⟨vl, hvl⟩ := Option.isSome_iff_exists.mp hl
      obtain ⟨rest, hrest⟩ := ih.mpr ⟨heven, hdigits⟩
      exact ⟨_, hexDecodePairs_cons_cons_eq_some.mpr ⟨vh, vl, rest, hvh, hvl, hrest, rfl⟩⟩

/-- The byte at `k` is made of the digits at 2k and 2k + 1 (43 R125). -/
theorem hexDecodePairs_getElem? : ∀ {t out : List Byte} {k : Nat} {c d : Byte} {h l : Nibble},
    hexDecodePairs t = some out → t[2 * k]? = some c → t[2 * k + 1]? = some d →
      decLut c = some h → decLut d = some l → out[k]? = some (joinNibbles h l)
  | [], _, _, _, _, _, _, _, hc, _, _, _ => by cases hc
  | [_], _, _, _, _, _, _, hpairs, _, _, _, _ => by cases hpairs
  | c' :: d' :: t, _, k, c, d, h, l, hpairs, hc, hd, hh, hl => by
    obtain ⟨vh, vl, rest, hvh, hvl, hrest, rfl⟩ := hexDecodePairs_cons_cons_eq_some.mp hpairs
    cases k with
    | zero =>
      obtain rfl : c' = c := Option.some.inj hc
      obtain rfl : d' = d := Option.some.inj hd
      simp [Option.some.inj (hvh.symm.trans hh), Option.some.inj (hvl.symm.trans hl)]
    | succ k =>
      have ih : rest[k]? = some (joinNibbles h l) := hexDecodePairs_getElem? hrest hc hd hh hl
      exact ih

/-- At an even split the bytes of a joined text are those of its parts (43 R131). -/
theorem hexDecodePairs_append_eq_some : ∀ {t u out : List Byte}, t.length % 2 = 0 →
    (hexDecodePairs (t ++ u) = some out ↔
      ∃ ot ou, hexDecodePairs t = some ot ∧ hexDecodePairs u = some ou ∧ ot ++ ou = out)
  | [], u, out, _ => by simp [hexDecodePairs]
  | [_], _, _, heven => by simp at heven
  | h :: l :: t, u, out, heven => by
    have heven' : t.length % 2 = 0 := (Nat.add_mod_right _ 2).symm.trans heven
    simp only [List.cons_append, hexDecodePairs_cons_cons_eq_some, hexDecodePairs_append_eq_some heven']
    constructor
    · rintro ⟨vh, vl, _, hh, hl, ⟨ot, ou, ht, hu, rfl⟩, rfl⟩
      exact ⟨_, ou, ⟨vh, vl, ot, hh, hl, ht, rfl⟩, hu, rfl⟩
    · rintro ⟨_, ou, ⟨vh, vl, ot, hh, hl, ht, rfl⟩, hu, rfl⟩
      exact ⟨vh, vl, _, hh, hl, ⟨ot, ou, ht, hu, rfl⟩, rfl⟩

/-- The encoder writes the text a buffer was decoded from in capitals (43 R131). -/
theorem hexEncodeCells_of_hexDecodePairs :
    ∀ {t out : List Byte}, hexDecodePairs t = some out → hexEncodeCells out = t.map foldUpper
  | [], _, h => by cases h; rfl
  | [_], _, h => by cases h
  | _ :: _ :: _, _, h => by
    obtain ⟨vh, vl, rest, hvh, hvl, hrest, rfl⟩ := hexDecodePairs_cons_cons_eq_some.mp h
    simp [hexEncodeCells, encLut_of_decLut_eq_some hvh, encLut_of_decLut_eq_some hvl,
      hexEncodeCells_of_hexDecodePairs hrest]

/-- A text decodes as its capitals do (43 R122). -/
@[simp] theorem hexDecodePairs_map_foldUpper : ∀ t : List Byte, hexDecodePairs (t.map foldUpper) = hexDecodePairs t
  | [] => rfl
  | [_] => rfl
  | h :: l :: t => by simp [hexDecodePairs, hexDecodePairs_map_foldUpper t]

/-! ### The response of HEXDEC -/

theorem commandResponse_hexdec (x : Word) {t out : List Byte} {alloc : Bool}
    (hpairs : hexDecodePairs t = some out) (h : allocDenied t.length alloc = false) :
    commandResponse (.hexdec x) t alloc = .ok out none := by
  have heven := (exists_hexDecodePairs_eq_some.mp ⟨out, hpairs⟩).1
  have hhalf : allocDenied (t.length / 2) alloc = false := by
    rwa [← allocDenied_two_mul, Nat.mul_div_cancel' (Nat.dvd_of_mod_eq_zero heven)]
  simp [commandResponse, hexdecResponse, withBuffer, heven, hhalf, hpairs]

/-- With the allocator granting, HEXDEC succeeds exactly on the texts that decode (43 R120). -/
@[simp] theorem commandResponse_hexdec_granted_eq_ok {x : Word} {t out : List Byte} :
    commandResponse (.hexdec x) t true = .ok out none ↔ hexDecodePairs t = some out := by
  have hgranted := allocDenied_granted t.length
  refine ⟨fun h => ?_, fun h => commandResponse_hexdec x h hgranted⟩
  cases hpairs : hexDecodePairs t with
  | none =>
    simp only [commandResponse, hexdecResponse, withBuffer, hpairs, allocDenied_granted] at h
    split at h <;> cases h
  | some bytes =>
    rw [commandResponse_hexdec x hpairs hgranted] at h
    rw [(Response.ok.inj h).1]

/-- HEXDEC answers a text as it answers the text in capitals (43 R122). -/
theorem commandResponse_hexdec_map_foldUpper (x : Word) (t : List Byte) (alloc : Bool) :
    commandResponse (.hexdec x) (t.map foldUpper) alloc = commandResponse (.hexdec x) t alloc := by
  simp [commandResponse, hexdecResponse]

theorem exec_hexdec_completes {s : State} {out : List Byte} (hready : s.Ready) (hgranted : s.Granted) (x : Word)
    (hpairs : hexDecodePairs s.input = some out) : Completes (exec (.hexdec x) s) s (.ok out none) :=
  commandResponse_hexdec x hpairs (allocDenied_of_granted hgranted) ▸ exec_completes hready (.hexdec x)

/-- Two spaces whose cells below `n` have equal images have equal lists of images. -/
theorem Memory.map_cells_congr {α : Type} (f : Byte → α) (m m' : Memory) (n : Nat)
    (h : ∀ k, k < n → f (m.read k) = f (m'.read k)) : (m.cells n).map f = (m'.cells n).map f := by
  induction n with
  | zero => rfl
  | succ n ih => simp [Memory.cells_succ, h n n.lt_succ_self, ih fun k hk => h k (Nat.lt_succ_of_lt hk)]

/-- A property of every cell below `n` is one of every cell listed. -/
theorem Memory.forall_mem_cells {p : Byte → Prop} {m : Memory} {n : Nat} (h : ∀ k, k < n → p (m.read k)) :
    ∀ c ∈ m.cells n, p c := by
  induction n with
  | zero => exact fun _ hc => nomatch hc
  | succ n ih =>
    rw [Memory.cells_succ]
    intro c hc
    rcases List.mem_append.mp hc with hbefore | hlast
    · exact ih (fun k hk => h k (Nat.lt_succ_of_lt hk)) c hbefore
    · exact List.mem_singleton.mp hlast ▸ h n n.lt_succ_self

end Sys2Proof.Machine
end

section
/-!
CLAIMS. The statements of spec 43 for this family.
-/
namespace Sys2Proof.Proofs.HexDecoder

open Sys2Proof.Machine

/-- Settles O13: the step is the beat, which at an even position writes HI and at an odd one stages a cell; a digit's
value is the one the beat works with. -/
theorem hexdecBeatEffect : Obligations.HexdecBeatEffect := by
  intro s hbeat hwf hop
  have hdigit : ∀ d, decLut (s.ibuf.read s.work.i) = some d → s.beatDigit = d := by
    intro d hd
    simp [State.beatDigit, State.loadCell, hd]
  rcases Nat.mod_two_eq_zero_or_one s.work.i with heven | hodd
  · rw [step_of_beatEnabled hbeat, beat_hexdec_even hop heven]
    exact ⟨_, rfl, rfl, by rw [if_pos heven]; rfl, fun _ => ⟨rfl, hdigit⟩, fun hodd => by omega⟩
  · rw [step_of_beatEnabled hbeat, beat_hexdec_odd hop hodd]
    have hphase : ¬ s.work.i % 2 = 0 := by omega
    refine ⟨_, rfl, rfl, by rw [if_neg hphase]; rfl, fun heven => absurd heven hphase,
      fun _ => ⟨rfl, fun a ha => ?_, fun d hd => ?_⟩⟩
    · exact (Memory.read_write _ _ _ a hwf).trans (if_neg ha)
    · rw [Memory.read_write _ _ _ _ hwf, if_pos rfl, hdigit d hd, joinNibbles_eq_shift_or]

/-- Settles O21: an even text of digits decodes, and each byte is that of its pair. -/
theorem hexdecResult : Obligations.HexdecResult := by
  intro x s hready hgranted heven hdigits
  obtain ⟨out, hpairs⟩ : ∃ out, hexDecodePairs s.input = some out :=
    exists_hexDecodePairs_eq_some.mpr ⟨by simpa using heven, Memory.forall_mem_cells hdigits⟩
  refine ⟨out, exec_hexdec_completes hready hgranted x hpairs, ?_, fun k hk h l hh hl => ?_⟩
  · rw [hexDecodePairs_length hpairs, State.input_length]
  · have hread {j : Nat} (hj : j < s.port.len) : s.input[j]? = some (s.port.input.read j) :=
      Memory.cells_getElem _ _ _ hj
    rw [← joinNibbles_eq_shift_or]
    exact hexDecodePairs_getElem? hpairs (hread (by omega)) (hread (by omega)) hh hl

/-- Settles O41: the text of HEXENC decodes to its buffer, and the response is that of the text in capitals. -/
theorem hexRoundTripAndCase : Obligations.HexRoundTripAndCase := by
  refine ⟨?_, fun x s u rsp hs hu hlen halloc hfold hcompletes => ?_⟩
  · rintro x y s u out hs hu hgranted rfl hencode
    refine exec_hexdec_completes hu hgranted y ?_
    rw [← hexEncodeCells_of_completes hs hencode, hexDecodePairs_hexEncodeCells]
  · have hcapitals : u.input.map foldUpper = s.input.map foldUpper := by
      rw [State.input, State.input, hlen]
      exact Memory.map_cells_congr _ _ _ _ hfold
    have hrsp : commandResponse (.hexdec x) u.input u.port.allocOk = rsp := by
      rw [← commandResponse_of_completes hs hcompletes, ← commandResponse_hexdec_map_foldUpper, hcapitals, halloc,
        commandResponse_hexdec_map_foldUpper]
    exact hrsp ▸ exec_completes hu (.hexdec x)

/-- Settles O44: the encoder gives the text in capitals, which is the text itself when folding moves no character. -/
theorem hexdecThenHexenc : Obligations.HexdecThenHexenc := by
  intro x y t out hdecode
  have hpairs := commandResponse_hexdec_granted_eq_ok.mp hdecode
  have hdigits := (exists_hexDecodePairs_eq_some.mp ⟨out, hpairs⟩).2
  rw [commandResponse_hexenc_granted, hexEncodeCells_of_hexDecodePairs hpairs]
  refine ⟨rfl, ?_⟩
  calc Response.ok (t.map foldUpper) none = .ok t none
    _ ↔ ∀ c ∈ t, foldUpper c = c := by simpa using List.map_inj_left (f := foldUpper) (g := id)
    _ ↔ ∀ c ∈ t, ¬ (0x61 ≤ c.toNat ∧ c.toNat ≤ 0x66) :=
      forall₂_congr fun c hc => foldUpper_eq_self_iff_of_digit c (hdigits c hc)

/-- Settles O45: an even split cuts no pair; the text `AA` cut in the middle leaves two odd ones. -/
theorem hexdecEvenSplit : Obligations.HexdecEvenSplit := by
  refine ⟨fun x t u heven => ?_, [0x41#8], [0x41#8], [0xAA#8], fun x => ⟨rfl, rfl, rfl⟩⟩
  simp only [commandResponse_hexdec_granted_eq_ok, hexDecodePairs_append_eq_some heven]
  refine ⟨⟨?_, ?_⟩, fun ot ou ht hu => ⟨ot, ou, ht, hu, rfl⟩⟩
  · rintro ⟨_, ot, ou, ht, hu, -⟩
    exact ⟨⟨ot, ht⟩, ⟨ou, hu⟩⟩
  · rintro ⟨⟨ot, ht⟩, ⟨ou, hu⟩⟩
    exact ⟨_, ot, ou, ht, hu, rfl⟩

end Sys2Proof.Proofs.HexDecoder
end

section
/-!
SUPPORT. Which command fails and how, as equivalences: each failure in terms of the operation, LEN, ALLOC_OK and the
characters of the input (60 R141 to R145).
-/
namespace Sys2Proof.Machine

/-! ### The response a command completes with -/

/-- In a ready state a command completes with its own response and with no other. -/
theorem exec_completes_iff {s : State} (hready : s.Ready) (i : Instr) {rsp : Response} :
    Completes (exec i s) s rsp ↔ commandResponse i s.input s.port.allocOk = rsp :=
  ⟨commandResponse_of_completes hready, fun h => h ▸ exec_completes hready i⟩

/-- Two idle instances given the same port complete its command with the same response, whatever else they hold. -/
theorem exec_completes_of_same_port {s t : State} {p : Port} (hs : s.busy = false) (ht : t.busy = false)
    (hmisuse : p.misuse = none) (i : Instr) :
    ∃ rsp, Completes (exec i { t with port := p }) { t with port := p } rsp
      ∧ Completes (exec i { s with port := p }) { s with port := p } rsp :=
  ⟨_, exec_completes (s := { t with port := p }) ⟨ht, hmisuse⟩ i,
    exec_completes (s := { s with port := p }) ⟨hs, hmisuse⟩ i⟩

/-! ### The outcomes of the pre-checks -/

/-- The first pre-check fails for HEXDEC over an odd text alone (40 R72). -/
theorem precheck_eq_oddLength {op : Op} {n : Nat} {alloc : Bool} :
    precheck op n alloc = some .oddLength ↔ op = .hexdec ∧ n % 2 = 1 := by
  rw [precheck_eq]
  by_cases hodd : op = .hexdec ∧ n % 2 = 1
  · simp [hodd]
  · by_cases hdenied : 0 < n ∧ alloc = false <;> simp [hodd, hdenied]

/-- The second pre-check fails where a buffer that is needed is denied (40 R73). -/
theorem precheck_eq_outOfMemory {op : Op} {n : Nat} {alloc : Bool} :
    precheck op n alloc = some .outOfMemory ↔ alloc = false ∧ ∃ l, requiredLength op n = some l ∧ 0 < l := by
  cases hlen : requiredLength op n with
  | none => simp [precheck, hlen]
  | some l =>
    have hdenied : allocDenied l alloc = true ↔ alloc = false ∧ 0 < l := by
      simp only [allocDenied, Bool.and_eq_true, decide_eq_true_eq, Bool.not_eq_true', and_comm]
    simp only [precheck, hlen, Option.some.injEq, exists_eq_left', ← hdenied]
    cases allocDenied l alloc <;> decide

/-- No pre-check looks for a digit. -/
theorem precheck_ne_invalidDigit (op : Op) (n : Nat) (alloc : Bool) : precheck op n alloc ≠ some .invalidDigit := by
  intro h
  rcases precheck_eq_some h with ⟨hf, -⟩ | ⟨hf, -⟩ <;> cases hf

/-- HEXDEC passes its pre-checks over an even text whose buffer is granted or not needed (40 R72, R73). -/
theorem precheck_hexdec_eq_none {n : Nat} {alloc : Bool} :
    precheck .hexdec n alloc = none ↔ n % 2 = 0 ∧ (n = 0 ∨ alloc = true) := by
  rw [precheck_eq]
  rcases Nat.mod_two_eq_zero_or_one n with heven | hodd
  · cases alloc <;> simp [heven]
  · simp [hodd]

/-! ### The failure of a command -/

/-- Past its pre-checks HEXDEC answers what the decoder makes of its text (43 R120). -/
theorem commandResponse_hexdec_of_precheck {x : Word} {t : List Byte} {alloc : Bool}
    (h : precheck .hexdec t.length alloc = none) : commandResponse (.hexdec x) t alloc = hexdecAnswer false [] t := by
  have heven : t.length % 2 = 0 := len_even_of_precheck_none h
  have hlen : requiredLength .hexdec t.length = some (t.length / 2) := by rw [requiredLength_hexdec, if_pos heven]
  rw [commandResponse, hexdecResponse, if_neg (by omega), withBuffer_of_precheck_none hlen h]
  cases hpairs : hexDecodePairs t <;> simp [hexdecAnswer, hpairs]

/-- A failure a command answers is that of the pre-check, or is InvalidDigit of a HEXDEC whose pre-checks passed and
whose text does not decode (60 R145). -/
theorem commandResponse_eq_err {i : Instr} {b : List Byte} {alloc : Bool} {f : Failure} :
    commandResponse i b alloc = .err f ↔
      precheck (opOf i) b.length alloc = some f
      ∨ (f = .invalidDigit ∧ opOf i = .hexdec ∧ precheck .hexdec b.length alloc = none ∧ hexDecodePairs b = none) := by
  cases hprecheck : precheck (opOf i) b.length alloc with
  | some g =>
    have hlater : ¬ (opOf i = .hexdec ∧ precheck .hexdec b.length alloc = none) := by
      rintro ⟨hop, hnone⟩
      simp [hop, hnone] at hprecheck
    rw [commandResponse_of_precheck hprecheck]
    simp only [Response.err.injEq, Option.some.injEq]
    exact ⟨.inl, fun h => h.resolve_right fun ⟨_, hop, hpass, _⟩ => hlater ⟨hop, hpass⟩⟩
  | none =>
    cases i with
    | hexdec x =>
      rw [opOf_hexdec] at hprecheck
      rw [commandResponse_hexdec_of_precheck hprecheck]
      cases hpairs : hexDecodePairs b <;> simp [hexdecAnswer, hpairs, hprecheck, eq_comm]
    | _ =>
      rcases commandResponse_of_precheck_none hprecheck with ⟨hop, -⟩ | ⟨out, rfinal, hok, -⟩
      · cases hop
      · simp [hok]

/-! ### A character that is no digit -/

/-- Some cell listed has a property exactly when the cell at some index below the count has it. -/
theorem Memory.exists_mem_cells {p : Byte → Prop} {m : Memory} {n : Nat} :
    (∃ c ∈ m.cells n, p c) ↔ ∃ k, k < n ∧ p (m.read k) := by
  constructor
  · rintro ⟨c, hc, hp⟩
    refine Classical.byContradiction fun hnone => ?_
    exact Memory.forall_mem_cells (p := fun c => ¬ p c) (fun k hk hp => hnone ⟨k, hk, hp⟩) c hc hp
  · rintro ⟨k, hk, hp⟩
    exact ⟨_, List.mem_of_getElem? (Memory.cells_getElem m n k hk), hp⟩

/-- An even text does not decode exactly when some character of it, first or second of its pair, is no digit
(43 R124). -/
theorem hexDecodePairs_eq_none {t : List Byte} (heven : t.length % 2 = 0) :
    hexDecodePairs t = none ↔ ∃ c ∈ t, decLut c = none := by
  have hdecodes : (∃ out, hexDecodePairs t = some out) ↔ ∀ c ∈ t, (decLut c).isSome = true := by
    rw [exists_hexDecodePairs_eq_some, and_iff_right heven]
  rw [← Option.isSome_iff_exists] at hdecodes
  rw [← Option.not_isSome_iff_eq_none, hdecodes]
  simp

end Sys2Proof.Machine
end

section
/-!
SUPPORT. What a step can answer: its equation where RESET is asserted and where no event is enabled, the next state or
the refusal of every other, and the step of one instance among several (60 R140, R155, R156).
-/
namespace Sys2Proof.Machine

/-- A RESET asserted is taken before any other event (70 R170, log entry 8). -/
theorem step_reset {s : State} (hreset : s.resetPending = true) : step s = .next s.takeReset := by
  simp [step, stepEvent, hreset]

/-- With no event enabled the state stays as it is (60 R155, log entry 21). -/
theorem step_idle {s : State} (hreset : s.resetPending = false) (hbusy : s.busy = false)
    (hvalid : s.port.valid = false) : step s = .next s := by
  simp [step, stepEvent, hreset, hbusy, hvalid]

/-- A command under way has its next event enabled: a BEAT with beats left, RESPOND with none (40 R74, R76). -/
theorem State.Underway.step_next {s : State} (h : s.Underway) : ∃ t, step s = .next t := by
  cases hleft : s.work.beatsLeft with
  | zero => exact ⟨_, step_respond h.inFlight (h.complete hleft)⟩
  | succ n => exact ⟨_, step_of_beatEnabled (h.beatEnabled hleft)⟩

/-- A command presented with its buffers as 20 R42 asks is started, in either grain. -/
theorem startEvent_next {s : State} (hready : s.Ready) : ∃ t, startEvent s = .next t := by
  cases hgrain : s.grain with
  | command =>
    obtain ⟨t, hnext, -⟩ := exec_completes hready s.presentedInstr
    exact ⟨t, by rw [startEvent, hgrain]; exact hnext⟩
  | event => exact ⟨_, by simp [startEvent, hgrain, acceptEvent, hready.2]; rfl⟩

/-- In a state that meets the invariant a step answers a next state, or refuses a misuse that stands in the state. -/
theorem step_next_or_misused {s : State} (hinv : s.Inv) :
    (∃ t, step s = .next t)
    ∨ ∃ m, step s = .refused (.hostMisuse m) ∧ (s.misuse = some m ∨ s.port.misuse = some m) := by
  cases hreset : s.resetPending with
  | true => exact .inl ⟨_, step_reset hreset⟩
  | false =>
  cases hbusy : s.busy with
  | true =>
    cases hmisuse : s.misuse with
    | none => exact .inl (hinv.underway ⟨hbusy, hreset, hmisuse⟩).step_next
    | some m => exact .inr ⟨m, (step_busy hbusy hreset).trans (busyEvent_misused hmisuse), .inl rfl⟩
  | false =>
  cases hvalid : s.port.valid with
  | false => exact .inl ⟨s, step_idle hreset hbusy hvalid⟩
  | true =>
    rw [step_start ⟨hreset, hbusy, hvalid⟩]
    cases hmisuse : s.port.misuse with
    | none => exact .inl (startEvent_next ⟨hbusy, hmisuse⟩)
    | some m => exact .inr ⟨m, startEvent_misused hbusy hmisuse, .inr rfl⟩

/-- Instance `k` steps by writing its place with the next state of what stands there; a place outside the list is
written to no effect. -/
theorem stepInstance_eq_next {k : Nat} {all u : List State} :
    stepInstance k all = .next u ↔ ∃ t, u = all.set k t ∧ ∀ s, all[k]? = some s → step s = .next t := by
  cases hk : all[k]? with
  | none =>
    have hset : ∀ t, all.set k t = all := fun t => List.set_eq_of_length_le (List.getElem?_eq_none_iff.mp hk)
    have hstate : Nonempty State := ⟨State.reset⟩
    simp [stepInstance, hk, hset, eq_comm]
  | some s => cases hstep : step s <;> simp [stepInstance, hk, hstep, eq_comm]

end Sys2Proof.Machine
end

section
/-!
CLAIMS. The statements of spec 60 for this family.
-/
namespace Sys2Proof.Proofs.Exceptions

open Sys2Proof.Machine

/-- Settles O24: OddLength is the failure of the first pre-check and of nothing later. -/
theorem oddLengthExactly : Obligations.OddLengthExactly := by
  intro i s hready
  rw [exec_completes_iff hready, commandResponse_eq_err, precheck_eq_oddLength, State.input_length]
  simp

/-- Settles O25: OutOfMemory is the failure of the second pre-check, and the format errors are HEXDEC's. -/
theorem outOfMemoryExactly : Obligations.OutOfMemoryExactly := by
  intro i s hready
  refine ⟨?_, fun hop f hfailed => ?_⟩
  · rw [exec_completes_iff hready, commandResponse_eq_err, precheck_eq_outOfMemory, State.input_length]
    simp
  · rcases commandResponse_err (commandResponse_of_completes hready hfailed) with ⟨hmem, -⟩ | ⟨-, hhexdec⟩
    · exact hmem
    · exact absurd hhexdec hop

/-- Settles O26: past the pre-checks of HEXDEC an even text fails to decode by a character that is no digit. -/
theorem invalidDigitExactly : Obligations.InvalidDigitExactly := by
  intro i s hready
  have hbad (heven : s.port.len % 2 = 0) :
      hexDecodePairs s.input = none ↔ ∃ k, k < s.port.len ∧ decLut (s.port.input.read k) = none := by
    rw [hexDecodePairs_eq_none (by rwa [State.input_length])]
    exact Memory.exists_mem_cells
  rw [exec_completes_iff hready, commandResponse_eq_err, precheck_hexdec_eq_none, State.input_length]
  simp only [precheck_ne_invalidDigit, false_or, true_and, and_assoc]
  exact and_congr_right fun _ => and_congr_right fun heven => and_congr_right fun _ => hbad heven

/-- Settles O49: after a failure and after RESET the instance is ready, and so it was without; the command at the port
is all a response depends on. -/
theorem nextCommandAsIfFirst : Obligations.NextCommandAsIfFirst := by
  refine ⟨fun i j s t f p hready hmisuse hexec _ => ?_, fun j s t p hreset hmisuse hstep => ?_⟩
  · have hidle : t.busy = false := by
      rcases exec_next hexec with ⟨-, rfl⟩ | ⟨-, rfl⟩
      · exact hready.1
      · rfl
    exact exec_completes_of_same_port hready.1 hidle hmisuse j
  · rw [step_reset hreset] at hstep
    cases hstep
    exact exec_completes_of_same_port (s := { s with busy := false }) rfl rfl hmisuse j

/-- Settles O52: each step writes its own place, and two writes of different places commute. -/
theorem instancesIndependent : Obligations.InstancesIndependent := by
  intro j k all mid last hjk hj hk
  obtain ⟨t, rfl, ht⟩ := stepInstance_eq_next.mp hj
  obtain ⟨u, rfl, hu⟩ := stepInstance_eq_next.mp hk
  rw [List.getElem?_set_ne hjk] at hu
  refine ⟨all.set k u, stepInstance_eq_next.mpr ⟨u, rfl, hu⟩,
    stepInstance_eq_next.mpr ⟨t, List.set_comm _ _ hjk, ?_⟩, fun n hn => List.getElem?_set_ne hn.symm⟩
  rwa [List.getElem?_set_ne hjk.symm]

/-- Settles O56: a step that answers no next state refuses a misuse of the host. -/
theorem stepNeverFaults : Obligations.StepNeverFaults := by
  intro s hinv
  rcases step_next_or_misused hinv with ⟨t, hnext⟩ | ⟨m, hrefused, hstands⟩
  · simp [hnext]
  · refine ⟨fun f => by simp [hrefused], fun r hr => ?_⟩
    rw [hrefused] at hr
    cases hr
    exact ⟨m, rfl, hstands⟩

/-- Settles O16: no event is enabled, and the state is left as it is. -/
theorem idleInstanceStays : Obligations.IdleInstanceStays :=
  fun _ hreset hbusy hvalid => step_idle hreset hbusy hvalid

end Sys2Proof.Proofs.Exceptions
end

section
/-!
SUPPORT. The step of a BUSY block and the moves of the host: no event of a command in flight reads the port, and a
misuse is refused before the event is taken (70 R176, R177, R182).
-/
namespace Sys2Proof.Machine

/-! ### The port of a waiting command -/

/-- A beat commutes with any change of the port: all it reads is the registers, IBUF and the staged output. -/
theorem beat_congr_port (s : State) (p : Port) : beat { s with port := p } = { beat s with port := p } := by
  cases hop : s.work.op with
  | decrypt => rw [beat_decrypt hop, beat_decrypt (s := { s with port := p }) hop]; rfl
  | encrypt => rw [beat_encrypt hop, beat_encrypt (s := { s with port := p }) hop]; rfl
  | hexenc => rw [beat_hexenc hop, beat_hexenc (s := { s with port := p }) hop]; rfl
  | hexdec =>
    rcases Nat.mod_two_eq_zero_or_one s.work.i with hi | hi
    · rw [beat_hexdec_even hop hi, beat_hexdec_even (s := { s with port := p }) hop hi]; rfl
    · rw [beat_hexdec_odd hop hi, beat_hexdec_odd (s := { s with port := p }) hop hi]; rfl

/-- While BUSY a step commutes with any change of the port: RESET, RESPOND and the beats read nothing of it
(40 R79, 70 R182). -/
theorem step_congr_port {s t : State} (hbusy : s.busy = true) (hstep : step s = .next t) (p : Port) :
    step { s with port := p } = .next { t with port := p } := by
  rcases step_next hstep with ⟨hreset, rfl⟩ | ⟨hreset, -, hevent⟩ | ⟨-, ⟨hidle, -⟩, -⟩ | ⟨-, hidle, -⟩
  · exact step_reset (s := { s with port := p }) hreset
  · rcases busyEvent_next hevent with ⟨hmisuse, ⟨hcomplete, rfl⟩ | ⟨hcomplete, hi, rfl⟩⟩
    · exact step_respond (s := { s with port := p }) ⟨hbusy, hreset, hmisuse⟩ hcomplete
    · rw [step_beat (s := { s with port := p }) ⟨hbusy, hreset, hmisuse⟩ hcomplete hi, beat_congr_port]
  · simp [hbusy] at hidle
  · simp [hbusy] at hidle

/-- While BUSY a step leaves the port as it was (40 R79). -/
theorem step_port_of_busy {s t : State} (hbusy : s.busy = true) (hstep : step s = .next t) : t.port = s.port := by
  rcases step_buffers hstep with ⟨⟨-, hidle, -⟩, -⟩ | ⟨-, hport, -⟩
  · simp [hbusy] at hidle
  · exact hport

/-- A presented command's input is the buffer it was presented with (30 R50). -/
@[simp] theorem present_input (s : State) (cmd : CmdWord) (b : List Byte) (alloc : Bool) :
    (s.present cmd b alloc).input = b :=
  Memory.cells_placeFrom b

/-- A buffer of LEN cells placed for the presented command is its input. -/
theorem placeInput_input {s : State} {b : List Byte} (hlen : b.length = s.port.len) : (s.placeInput b).input = b := by
  rw [State.input, State.placeInput_port, ← hlen]
  exact Memory.cells_placeFrom b

/-! ### Misuse in flight -/

/-- The step of a BUSY block whose buffers the host misused is refused by that misuse's name (93 U6, U7). -/
theorem step_misused_of_busy {s : State} {m : HostMisuse} (hreset : s.resetPending = false) (hbusy : s.busy = true)
    (hmisuse : s.misuse = some m) : step s = .refused (.hostMisuse m) :=
  (step_busy hbusy hreset).trans (busyEvent_misused hmisuse)

/-- Changing a cell of IBUF below LEN in flight is a misuse (70 R176). -/
theorem hostWriteIbuf_misused {s : State} {a : Nat} {v : Byte} (hbusy : s.busy = true) (ha : a < s.work.len)
    (hv : s.ibuf.read a ≠ v) : (s.hostWriteIbuf a v).misuse = some .ibufChanged := by
  simp [hbusy, ha, hv]

/-- Writing at or above LEN, or what the cell already holds, is no misuse (70 R176). -/
theorem hostWriteIbuf_allowed {s : State} {a : Nat} {v : Byte} (h : s.work.len ≤ a ∨ s.ibuf.read a = v) :
    (s.hostWriteIbuf a v).misuse = s.misuse := by
  rcases h with ha | hv
  · simp [Nat.not_lt.mpr ha]
  · simp [hv]

theorem hostTouchObuf_misused {s : State} (hbusy : s.busy = true) :
    s.hostTouchObuf.misuse = some .obufTouched := by
  simp [State.hostTouchObuf, hbusy]

theorem shareObuf_misused {s : State} (hbusy : s.busy = true) : s.shareObuf.misuse = some .obufShared := by
  simp [State.shareObuf, hbusy]

end Sys2Proof.Machine
end

section
/-!
CLAIMS. The statements of spec 70 for this family.
-/
namespace Sys2Proof.Proofs.ResetAndHazards

open Sys2Proof.Machine

/-- Settles O46: the four commands are granted their buffers, the decoder reads the text of HEXENC back, and DECRYPT
undoes ENCRYPT. -/
theorem pfaFlowReturnsSection : Obligations.PfaFlowReturnsSection := by
  intro r0 x y plain
  have hencrypt := commandResponse_encrypt r0 (allocDenied_granted plain.length)
  have hdecrypt := commandResponse_decrypt r0 (allocDenied_granted (encryptFrom r0 plain).1.length)
  rw [decryptFrom_encryptFrom] at hdecrypt
  exact ⟨_, _, _, hencrypt, commandResponse_hexenc_granted x _,
    commandResponse_hexdec_granted_eq_ok.mpr (hexDecodePairs_hexEncodeCells _), hdecrypt⟩

/-- Settles O59: each move changes the port and nothing else, which the step neither reads nor writes while BUSY. -/
theorem hostMayUseWaitingBuffer : Obligations.HostMayUseWaitingBuffer := by
  intro s t hbusy hstep
  have hport : t.port = s.port := step_port_of_busy hbusy hstep
  have hcongr := step_congr_port hbusy hstep
  refine ⟨fun cmd b alloc => ⟨hcongr _, present_input t cmd b alloc⟩, ?_, fun a v => ?_, fun b => ⟨?_, fun hlen => ?_⟩⟩
  · rw [State.withdraw, State.withdraw, hport]; exact hcongr _
  · rw [State.hostWriteInput, State.hostWriteInput, hport]; exact hcongr _
  · rw [State.placeInput, State.placeInput, hport]; exact hcongr _
  · exact placeInput_input (hport ▸ hlen)

/-- Settles O15: RESET is taken first. -/
theorem resetDiscardsCommand : Obligations.ResetDiscardsCommand :=
  fun _ hreset => ⟨_, step_reset hreset, rfl, rfl, rfl, rfl, rfl, rfl, rfl, rfl⟩

/-- Settles O29: each of the three moves puts its misuse in the state, and the step of a BUSY block refuses it. -/
theorem hostMovesInFlightRefused : Obligations.HostMovesInFlightRefused := by
  intro s hreset hbusy
  exact ⟨fun a v ha hv => step_misused_of_busy hreset hbusy (hostWriteIbuf_misused hbusy ha hv),
    fun a v hallowed => hostWriteIbuf_allowed hallowed,
    step_misused_of_busy hreset hbusy (hostTouchObuf_misused hbusy),
    step_misused_of_busy hreset hbusy (shareObuf_misused hbusy)⟩

end Sys2Proof.Proofs.ResetAndHazards
end
